-- ==== Sys2Proof/Word.lean ====
section
/-! DEFINITION. The word types of SRP16: 16-bit registers (R5) and 8-bit memory bytes (R30). -/

namespace Sys2Proof

/-- The value of a 16-bit register, an address or an instruction word (R5, R30, R80). -/
abbrev Word := BitVec 16

/-- The value of one memory byte (R30). -/
abbrev Byte := BitVec 8

/-- A 6-bit register ID (R32). -/
abbrev RegId := BitVec 6

end Sys2Proof
end

