-- ==== Sys2Proof/Config.lean ====
section
/-! DEFINITION. The parameters the spec leaves open (R6), with every value the spec names for each, and the one free value.
The values that hold at reset are `defaultParams` in Sys2Proof/Machine/Params.lean. -/

namespace Sys2Proof

/-- ETYPE_LAYOUT (R6, R83): where the two fields of an E-type load or store stand. opcode1 is at bits 3:0 in every instruction
(R81), so an 8-bit and a 4-bit field share bits 15:4; the spec names the first order only (log 10). -/
inductive ETypeLayout where
  /-- imm8 at bits 15:8, rx at bits 7:4 (the spec's default, D1). -/
  | standard
  /-- DEDUCED (log 10): the other order of the two fields, rx at bits 15:12, imm8 at bits 11:4. -/
  | swapped
deriving DecidableEq, Repr

/-- TTYPE_LAYOUT (R6, R84): where the one field of a T-type instruction stands. With opcode1 at bits 3:0 (R81) a 12-bit field
has one place, so the parameter has the one value the spec names (log 10). -/
inductive TTypeLayout where
  /-- imm12 at bits 15:4 (the spec's default, D1). -/
  | standard
deriving DecidableEq, Repr

/-- RTYPE_LAYOUT (R6, R85): which 6-bit field of an R-type word stands where. -/
inductive RTypeLayout where
  /-- opcode2 or register1 at bits 9:4, the other field at bits 15:10 (the spec's default, D2). -/
  | standard
  /-- The alternative of R85: the two 6-bit fields exchanged. -/
  | swapped
deriving DecidableEq, Repr

/-- CARRY_MODEL (R6, R29): what "carry" is. -/
inductive CarryModel where
  /-- One more state bit, written by the seven add and subtract instructions (the spec's default, D5). -/
  | separate
  /-- Another name for the flag bit. -/
  | flag
  /-- An unconstrained bit, chosen afresh at every call of CarryIn(). -/
  | draw
deriving DecidableEq, Repr

/-- CMP_SIGNED (R6, R197): how CL, CG, CLI and CGI compare. -/
inductive CompareModel where
  /-- As two's complement numbers (the spec's default, D6). -/
  | signed
  /-- As numbers 0 to 65535. -/
  | unsigned
deriving DecidableEq, Repr

/-- SHIFT_MODEL (R6, R162): how a shift amount of 16 or more is used. -/
inductive ShiftModel where
  /-- The amount is used as the number it is (the spec's default, D7). -/
  | full
  /-- Only the low four bits of the amount count. -/
  | mod16
deriving DecidableEq, Repr

/-- MISALIGNED (R6, R56, R57): what a 2-byte access or a fetch at an odd address does. -/
inductive MisalignedModel where
  /-- No meaning is given (the spec's default, D8). -/
  | refuse
  /-- It is the two byte accesses at `addr` and `addr + 1` modulo 65536. -/
  | split
deriving DecidableEq, Repr

/-- BRANCH_BASE (R6, R133): the value of "PC" in the operation of SJMP and SJMPF. -/
inductive BranchBase where
  /-- The address of the branch itself (the spec's default, D14). -/
  | self
  /-- The address of the branch plus 2. -/
  | next
deriving DecidableEq, Repr

/-- FETCH_COHERENCE (R6, R62): whether a fetch sees an earlier store. -/
inductive FetchCoherence where
  /-- A fetch of a byte stored to since reset has no meaning (the spec's default, D15). -/
  | refuseWritten
  /-- A fetch returns the latest stored bytes. -/
  | coherent
deriving DecidableEq, Repr

/-- The three parameters of R6 that decoding takes: ETYPE_LAYOUT, TTYPE_LAYOUT and RTYPE_LAYOUT. -/
structure Layouts where
  etypeLayout : ETypeLayout
  ttypeLayout : TTypeLayout
  rtypeLayout : RTypeLayout
deriving DecidableEq, Repr

/-- The open parameters of R6 that the host fixes before the first step (R223 step 1). INIT_STATE is the argument of
`Sys2Proof.Machine.launch`. -/
structure Params extends Layouts where
  /-- MEM_SIZE: addresses 0 to memSize - 1 are populated; at most 65536 (R50). -/
  memSize : Nat
  /-- RESET_PC: the value of pc after reset (R220). -/
  resetPc : Word
  carryModel : CarryModel
  compareModel : CompareModel
  shiftModel : ShiftModel
  misaligned : MisalignedModel
  branchBase : BranchBase
  fetchCoherence : FetchCoherence
deriving DecidableEq, Repr

/-- FREE VALUE (log 13). The bits CarryIn() returns under CARRY_MODEL = draw: "an unconstrained bit, chosen afresh at every
call" (R29). It has no body, so no proof can know a bit of it; the argument is the running number of the call. -/
opaque Config.freeCarry : Nat → Bool

end Sys2Proof
end

