-- ==== Sys2Proof/Machine/Params.lean ====
section
/-! DEFINITION. The values the open choices have in the machine after reset: the spec's defaults of R6, and the value every
register holds where the spec states none. -/

/-- The default layouts of R6 (R83 to R85; D1, D2; log 10). -/
def Sys2Proof.Layouts.standard : Sys2Proof.Layouts where
  etypeLayout := .standard
  ttypeLayout := .standard
  rtypeLayout := .standard

namespace Sys2Proof.Machine

/-- The default parameter values of R6 (each the spec's own decision: D1, D2, D5 to D9, D13 to D15; log 2 to 10). -/
def defaultParams : Params where
  toLayouts := Layouts.standard
  memSize := 65536
  resetPc := 0x0000#16
  carryModel := .separate
  compareModel := .signed
  shiftModel := .full
  misaligned := .refuse
  branchBase := .self
  fetchCoherence := .refuseWritten

/-- DESIGN CHOICE (log 11), unsafe: what R0 to R31, A, MPTR and SP hold after reset. R36 calls it unspecified. -/
def unstatedResetWord : Word := 0x0000#16

/-- DESIGN CHOICE (log 11), unsafe: what flag and carry hold after reset. R36 calls it unspecified. -/
def unstatedResetBit : Bool := false

end Sys2Proof.Machine
end

