-- ==== Sys2Proof/Syntax.lean ====
section
/-! DEFINITION. The instructions: one constructor per row of spec/opcode_table.json, in the table's order (R90, R91, R92).
Every field of the encoding is kept, the don't-care fields of LDMPTRU, LDAU and NOTF included (R88, R96; log 17). -/

namespace Sys2Proof

/-- An SRP16 instruction. `rx` is the 4-bit register field of an E-type word (R83); `reg6`, `register1` and `register2` are
6-bit register IDs (R85, R86); `imm8`, `imm12` and `imm6` are the immediates as they stand in the word (R87). -/
inductive Instr where
  | ldr (rx : BitVec 4) (imm8 : BitVec 8)
  | ldru (rx : BitVec 4) (imm8 : BitVec 8)
  | ldAtMptr (rx : BitVec 4) (imm8 : BitVec 8)
  | stAtMptr (rx : BitVec 4) (imm8 : BitVec 8)
  | ldbAtMptr (rx : BitVec 4) (imm8 : BitVec 8)
  | stbAtMptr (rx : BitVec 4) (imm8 : BitVec 8)
  | lda (imm12 : BitVec 12)
  | ldmptr (imm12 : BitVec 12)
  | ldmptru (imm12 : BitVec 12)
  | mov (register1 register2 : RegId)
  | movFromPc (register1 : RegId)
  | jmp (register2 : RegId)
  | sjmp (imm12 : BitVec 12)
  | sjmpf (imm12 : BitVec 12)
  | add (reg6 : RegId)
  | sub (reg6 : RegId)
  | sla (reg6 : RegId)
  | sra (reg6 : RegId)
  | sll (reg6 : RegId)
  | srl (reg6 : RegId)
  | and (reg6 : RegId)
  | or (reg6 : RegId)
  | xor (reg6 : RegId)
  | cl (reg6 : RegId)
  | cg (reg6 : RegId)
  | ce (reg6 : RegId)
  | adc (reg6 : RegId)
  | sbb (reg6 : RegId)
  | notf (opcode3 : BitVec 6)
  | slai (imm6 : BitVec 6)
  | srai (imm6 : BitVec 6)
  | slli (imm6 : BitVec 6)
  | srli (imm6 : BitVec 6)
  | ldau (imm6 : BitVec 6)
  | pop (reg6 : RegId)
  | push (reg6 : RegId)
  | inc (reg6 : RegId)
  | dec (reg6 : RegId)
  | addi (imm8 : BitVec 8)
  | andi (imm8 : BitVec 8)
  | ori (imm8 : BitVec 8)
  | xori (imm8 : BitVec 8)
  | cli (imm8 : BitVec 8)
  | cgi (imm8 : BitVec 8)
  | cei (imm8 : BitVec 8)
  | adci (imm8 : BitVec 8)
  | sbbi (imm8 : BitVec 8)
deriving DecidableEq, Repr

end Sys2Proof
end

