-- ==== Sys2Proof/WellFormed.lean ====
section
/-! DEFINITION. What a well-formed instruction is. `Instr.wellFormed`: the term is the one form of its instruction word (the three
forms of MOV are told apart by the ID 63, R92). `Instr.regIdsAllowed`: its register IDs are ones the instruction may use
(R33 to R35, R95); a word that fails only this check decodes, and its meaning refuses it with `reservedRegisterId`. -/

namespace Sys2Proof

/-- The register ID of the PC (R32). -/
def RegId.pcId : RegId := 63#6

/-- An ID of R0 to R31 (R32). -/
def RegId.isGpr (id : RegId) : Bool := decide (id.toNat < 32)

/-- An ID the class MOV allows: 0 to 31 and 60 to 63 (R34). -/
def RegId.allowedMov (id : RegId) : Bool := decide (id.toNat < 32 ∨ 60 ≤ id.toNat)

/-- An ID the class ALU allows: 0 to 31 and 60 to 62 (R34). -/
def RegId.allowedAlu (id : RegId) : Bool := decide (id.toNat < 32 ∨ (60 ≤ id.toNat ∧ id.toNat ≤ 62))

/-- The term is the one form of its word: MOV proper has neither field 63, and the word with both fields 63 is written
as MOV_FROM_PC (R92, R135; log 14). -/
def Instr.wellFormed : Instr → Bool
  | .mov d s => d != RegId.pcId && s != RegId.pcId
  | .jmp s => s != RegId.pcId
  | .ldr _ _ | .ldru _ _ | .ldAtMptr _ _ | .stAtMptr _ _ | .ldbAtMptr _ _ | .stbAtMptr _ _ => true
  | .lda _ | .ldmptr _ | .ldmptru _ | .movFromPc _ | .sjmp _ | .sjmpf _ => true
  | .add _ | .sub _ | .sla _ | .sra _ | .sll _ | .srl _ | .and _ | .or _ | .xor _ => true
  | .cl _ | .cg _ | .ce _ | .adc _ | .sbb _ | .notf _ => true
  | .slai _ | .srai _ | .slli _ | .srli _ | .ldau _ | .pop _ | .push _ | .inc _ | .dec _ => true
  | .addi _ | .andi _ | .ori _ | .xori _ | .cli _ | .cgi _ | .cei _ | .adci _ | .sbbi _ => true

/-- The register IDs of the instruction are ones it may use (R34, R35, R95). -/
def Instr.regIdsAllowed : Instr → Bool
  | .mov d s => d.allowedMov && s.allowedMov
  | .movFromPc d => d.allowedMov
  | .jmp s => s.allowedMov
  | .add r | .sub r | .adc r | .sbb r | .and r | .or r | .xor r => r.allowedAlu
  | .sla r | .sra r | .sll r | .srl r | .cl r | .cg r | .ce r => r.allowedAlu
  | .pop r | .push r | .inc r | .dec r => r.isGpr
  | .ldr _ _ | .ldru _ _ | .ldAtMptr _ _ | .stAtMptr _ _ | .ldbAtMptr _ _ | .stbAtMptr _ _ => true
  | .lda _ | .ldmptr _ | .ldmptru _ | .sjmp _ | .sjmpf _ | .notf _ => true
  | .slai _ | .srai _ | .slli _ | .srli _ | .ldau _ => true
  | .addi _ | .andi _ | .ori _ | .xori _ | .cli _ | .cgi _ | .cei _ | .adci _ | .sbbi _ => true

end Sys2Proof
end

