-- ==== Sys2Proof/Decode.lean ====
section
/-! DEFINITION. Decoding an instruction word (R80 to R96), the encoder, and the opcode table as data (R91, R92). Both take
ETYPE_LAYOUT, TTYPE_LAYOUT and RTYPE_LAYOUT as an argument (R6, R83 to R85; log 10). -/

namespace Sys2Proof

/-! ### Fields of the instruction word (R86) -/

/-- The primary opcode, `iw[3:0]` in every instruction (R81). -/
def opcode1 (iw : Word) : BitVec 4 := iw.extractLsb' 0 4

/-- The 4-bit field `iw[7:4]`: the E-type opcode2 (R82), or `rx` under the default ETYPE_LAYOUT (R83). -/
def field4 (iw : Word) : BitVec 4 := iw.extractLsb' 4 4

/-- `imm8 = iw[15:8]` (R82), of an E-type load or store under the default ETYPE_LAYOUT (R83). -/
def imm8 (iw : Word) : BitVec 8 := iw.extractLsb' 8 8

/-- `rx` of an E-type load or store (R83, ETYPE_LAYOUT). -/
def rxField (l : ETypeLayout) (iw : Word) : BitVec 4 :=
  match l with
  | .standard => field4 iw
  | .swapped => iw.extractLsb' 12 4

/-- `imm8` of an E-type load or store (R83, ETYPE_LAYOUT). -/
def rxImm8 (l : ETypeLayout) (iw : Word) : BitVec 8 :=
  match l with
  | .standard => imm8 iw
  | .swapped => iw.extractLsb' 4 8

/-- `imm12` of a T-type instruction (R84, TTYPE_LAYOUT). -/
def imm12 (l : TTypeLayout) (iw : Word) : BitVec 12 :=
  match l with
  | .standard => iw.extractLsb' 4 12

/-- The 6-bit field next to opcode1, `iw[9:4]` (R85). -/
def lower6 (iw : Word) : BitVec 6 := iw.extractLsb' 4 6

/-- The 6-bit field at the top, `iw[15:10]` (R85). -/
def upper6 (iw : Word) : BitVec 6 := iw.extractLsb' 10 6

/-- opcode2, or register1 of MOV (R85, RTYPE_LAYOUT). -/
def firstField (l : RTypeLayout) (iw : Word) : BitVec 6 :=
  match l with
  | .standard => lower6 iw
  | .swapped => upper6 iw

/-- reg6, imm6 or opcode3, or register2 of MOV (R85, RTYPE_LAYOUT). -/
def secondField (l : RTypeLayout) (iw : Word) : BitVec 6 :=
  match l with
  | .standard => upper6 iw
  | .swapped => lower6 iw

/-! ### Decoding -/

/-- Why a word or a byte sequence is no instruction: the three unassigned spaces of R94, and fewer than 2 bytes. -/
inductive DecodeError where
  /-- opcode1 is 1110 or 1111. -/
  | unassignedOpcode1
  /-- opcode1 is 1100 and no row of the table has this 6-bit opcode2. -/
  | unassignedOpcode2
  /-- opcode1 is 1101 and no row of the table has this 4-bit opcode2. -/
  | unassignedOpcode2E
  /-- Fewer bytes than the 2 of an instruction (R80). -/
  | truncated
deriving DecidableEq, Repr

/-- The words with opcode1 = 1001: the three forms of MOV, told apart by the PC's ID. The word with both fields 63 matches
two rows of the table with as many mask bits each; it is read as the first of them (R92, R135; log 14). -/
def decodeMov (register1 register2 : RegId) : Instr :=
  if register2 = RegId.pcId then .movFromPc register1
  else if register1 = RegId.pcId then .jmp register2
  else .mov register1 register2

/-- The words with opcode1 = 1100, by opcode2 (R91, second table). -/
def decodeRType (opcode2 third : BitVec 6) : Except DecodeError Instr :=
  match opcode2 with
  | 0b000001#6 => .ok (.add third)
  | 0b000010#6 => .ok (.sub third)
  | 0b000011#6 => .ok (.sla third)
  | 0b000100#6 => .ok (.sra third)
  | 0b000101#6 => .ok (.sll third)
  | 0b000110#6 => .ok (.srl third)
  | 0b000111#6 => .ok (.and third)
  | 0b001000#6 => .ok (.or third)
  | 0b001001#6 => .ok (.xor third)
  | 0b001010#6 => .ok (.cl third)
  | 0b001011#6 => .ok (.cg third)
  | 0b001100#6 => .ok (.ce third)
  | 0b001101#6 => .ok (.adc third)
  | 0b001110#6 => .ok (.sbb third)
  | 0b010000#6 => .ok (.notf third)
  | 0b100011#6 => .ok (.slai third)
  | 0b100100#6 => .ok (.srai third)
  | 0b100101#6 => .ok (.slli third)
  | 0b100110#6 => .ok (.srli third)
  | 0b111011#6 => .ok (.ldau third)
  | 0b111100#6 => .ok (.pop third)
  | 0b111101#6 => .ok (.push third)
  | 0b111110#6 => .ok (.inc third)
  | 0b111111#6 => .ok (.dec third)
  | _ => .error .unassignedOpcode2

/-- The words with opcode1 = 1101, by the E-type opcode2 (R91, third table). -/
def decodeEType (opcode2 : BitVec 4) (imm : BitVec 8) : Except DecodeError Instr :=
  match opcode2 with
  | 0b0001#4 => .ok (.addi imm)
  | 0b0111#4 => .ok (.andi imm)
  | 0b1000#4 => .ok (.ori imm)
  | 0b1001#4 => .ok (.xori imm)
  | 0b1010#4 => .ok (.cli imm)
  | 0b1011#4 => .ok (.cgi imm)
  | 0b1100#4 => .ok (.cei imm)
  | 0b1101#4 => .ok (.adci imm)
  | 0b1110#4 => .ok (.sbbi imm)
  | _ => .error .unassignedOpcode2E

/-- The instruction of a 16-bit word (R90), under the three layouts. -/
def decode (l : Layouts) (iw : Word) : Except DecodeError Instr :=
  match opcode1 iw with
  | 0b0000#4 => .ok (.ldr (rxField l.etypeLayout iw) (rxImm8 l.etypeLayout iw))
  | 0b0001#4 => .ok (.ldru (rxField l.etypeLayout iw) (rxImm8 l.etypeLayout iw))
  | 0b0010#4 => .ok (.ldAtMptr (rxField l.etypeLayout iw) (rxImm8 l.etypeLayout iw))
  | 0b0011#4 => .ok (.stAtMptr (rxField l.etypeLayout iw) (rxImm8 l.etypeLayout iw))
  | 0b0100#4 => .ok (.ldbAtMptr (rxField l.etypeLayout iw) (rxImm8 l.etypeLayout iw))
  | 0b0101#4 => .ok (.stbAtMptr (rxField l.etypeLayout iw) (rxImm8 l.etypeLayout iw))
  | 0b0110#4 => .ok (.lda (imm12 l.ttypeLayout iw))
  | 0b0111#4 => .ok (.ldmptr (imm12 l.ttypeLayout iw))
  | 0b1000#4 => .ok (.ldmptru (imm12 l.ttypeLayout iw))
  | 0b1001#4 => .ok (decodeMov (firstField l.rtypeLayout iw) (secondField l.rtypeLayout iw))
  | 0b1010#4 => .ok (.sjmp (imm12 l.ttypeLayout iw))
  | 0b1011#4 => .ok (.sjmpf (imm12 l.ttypeLayout iw))
  | 0b1100#4 => decodeRType (firstField l.rtypeLayout iw) (secondField l.rtypeLayout iw)
  | 0b1101#4 => decodeEType (field4 iw) (imm8 iw)
  | _ => .error .unassignedOpcode1

/-- The 16-bit value of two bytes, the byte at the lower address least significant (R52, R57). -/
def wordOfBytes (lo hi : Byte) : Word := hi ++ lo

/-- The byte at the lower address of a 16-bit value, `v[7:0]` (R52). -/
def lowByte (v : Word) : Byte := v.extractLsb' 0 8

/-- The byte at the higher address of a 16-bit value, `v[15:8]` (R52). -/
def highByte (v : Word) : Byte := v.extractLsb' 8 8

/-- Decoding any byte sequence: the first instruction and the bytes after it. Every instruction is 2 bytes (R80). -/
def decodeBytes (l : Layouts) : List Byte → Except DecodeError (Instr × List Byte)
  | lo :: hi :: rest => (decode l (wordOfBytes lo hi)).map (fun i => (i, rest))
  | _ => .error .truncated

/-- The host's question: the instruction read from an opcode-table word `w` of `nbits` bits, every bit above them 0, its two
bytes laid out in memory order, under the default layouts. -/
def decodeTableWord (nbits w : Nat) : Option Instr :=
  let iw : Word := BitVec.ofNat 16 (w % 2 ^ nbits)
  match decodeBytes Machine.defaultParams.toLayouts [lowByte iw, highByte iw] with
  | .ok (i, _) => some i
  | .error _ => none

/-! ### Encoding -/

/-- An E-type word in the order of Fig 9: `imm8 ++ opcode2 ++ opcode1` (R82), or `imm8 ++ rx ++ opcode1` (R83). -/
def eWord (imm : BitVec 8) (field : BitVec 4) (op : BitVec 4) : Word := imm ++ field ++ op

/-- The word of an E-type load or store (R83, ETYPE_LAYOUT). -/
def rxWord (l : ETypeLayout) (imm : BitVec 8) (rx : BitVec 4) (op : BitVec 4) : Word :=
  match l with
  | .standard => eWord imm rx op
  | .swapped => rx ++ imm ++ op

/-- A T-type word: `imm12 ++ opcode1` (R84, TTYPE_LAYOUT). -/
def tWord (l : TTypeLayout) (imm : BitVec 12) (op : BitVec 4) : Word :=
  match l with
  | .standard => imm ++ op

/-- An R-type word of its two 6-bit fields and opcode1 (R85). -/
def rWord (l : RTypeLayout) (second first : BitVec 6) (op : BitVec 4) : Word :=
  match l with
  | .standard => second ++ first ++ op
  | .swapped => first ++ second ++ op

/-- The instruction word of an instruction (R80 to R92). -/
def encode (l : Layouts) : Instr → Word
  | .ldr rx imm => rxWord l.etypeLayout imm rx 0b0000#4
  | .ldru rx imm => rxWord l.etypeLayout imm rx 0b0001#4
  | .ldAtMptr rx imm => rxWord l.etypeLayout imm rx 0b0010#4
  | .stAtMptr rx imm => rxWord l.etypeLayout imm rx 0b0011#4
  | .ldbAtMptr rx imm => rxWord l.etypeLayout imm rx 0b0100#4
  | .stbAtMptr rx imm => rxWord l.etypeLayout imm rx 0b0101#4
  | .lda imm => tWord l.ttypeLayout imm 0b0110#4
  | .ldmptr imm => tWord l.ttypeLayout imm 0b0111#4
  | .ldmptru imm => tWord l.ttypeLayout imm 0b1000#4
  | .mov r1 r2 => rWord l.rtypeLayout r2 r1 0b1001#4
  | .movFromPc r1 => rWord l.rtypeLayout RegId.pcId r1 0b1001#4
  | .jmp r2 => rWord l.rtypeLayout r2 RegId.pcId 0b1001#4
  | .sjmp imm => tWord l.ttypeLayout imm 0b1010#4
  | .sjmpf imm => tWord l.ttypeLayout imm 0b1011#4
  | .add r => rWord l.rtypeLayout r 0b000001#6 0b1100#4
  | .sub r => rWord l.rtypeLayout r 0b000010#6 0b1100#4
  | .sla r => rWord l.rtypeLayout r 0b000011#6 0b1100#4
  | .sra r => rWord l.rtypeLayout r 0b000100#6 0b1100#4
  | .sll r => rWord l.rtypeLayout r 0b000101#6 0b1100#4
  | .srl r => rWord l.rtypeLayout r 0b000110#6 0b1100#4
  | .and r => rWord l.rtypeLayout r 0b000111#6 0b1100#4
  | .or r => rWord l.rtypeLayout r 0b001000#6 0b1100#4
  | .xor r => rWord l.rtypeLayout r 0b001001#6 0b1100#4
  | .cl r => rWord l.rtypeLayout r 0b001010#6 0b1100#4
  | .cg r => rWord l.rtypeLayout r 0b001011#6 0b1100#4
  | .ce r => rWord l.rtypeLayout r 0b001100#6 0b1100#4
  | .adc r => rWord l.rtypeLayout r 0b001101#6 0b1100#4
  | .sbb r => rWord l.rtypeLayout r 0b001110#6 0b1100#4
  | .notf op3 => rWord l.rtypeLayout op3 0b010000#6 0b1100#4
  | .slai imm => rWord l.rtypeLayout imm 0b100011#6 0b1100#4
  | .srai imm => rWord l.rtypeLayout imm 0b100100#6 0b1100#4
  | .slli imm => rWord l.rtypeLayout imm 0b100101#6 0b1100#4
  | .srli imm => rWord l.rtypeLayout imm 0b100110#6 0b1100#4
  | .ldau imm => rWord l.rtypeLayout imm 0b111011#6 0b1100#4
  | .pop r => rWord l.rtypeLayout r 0b111100#6 0b1100#4
  | .push r => rWord l.rtypeLayout r 0b111101#6 0b1100#4
  | .inc r => rWord l.rtypeLayout r 0b111110#6 0b1100#4
  | .dec r => rWord l.rtypeLayout r 0b111111#6 0b1100#4
  | .addi imm => eWord imm 0b0001#4 0b1101#4
  | .andi imm => eWord imm 0b0111#4 0b1101#4
  | .ori imm => eWord imm 0b1000#4 0b1101#4
  | .xori imm => eWord imm 0b1001#4 0b1101#4
  | .cli imm => eWord imm 0b1010#4 0b1101#4
  | .cgi imm => eWord imm 0b1011#4 0b1101#4
  | .cei imm => eWord imm 0b1100#4 0b1101#4
  | .adci imm => eWord imm 0b1101#4 0b1101#4
  | .sbbi imm => eWord imm 0b1110#4 0b1101#4

/-! ### The opcode table as data -/

/-- One row of the opcode table under the default layout: the word belongs to the row when `word &&& mask = pattern` (R91, R92). -/
structure OpcodeRow where
  mask : Word
  pattern : Word
deriving DecidableEq, Repr

/-- A row selected by opcode1 alone (R91, first table). -/
def rowByOpcode1 (op : BitVec 4) : OpcodeRow := ⟨0x000F#16, op.setWidth 16⟩

/-- A row with opcode1 = 1100 (R91, second table): match = opcode2 * 16 + 0xC. -/
def rowRType (opcode2 : BitVec 6) : OpcodeRow := ⟨0x03FF#16, (opcode2 ++ 0b1100#4).setWidth 16⟩

/-- A row with opcode1 = 1101 (R91, third table): match = opcode2 * 16 + 0xD. -/
def rowEType (opcode2 : BitVec 4) : OpcodeRow := ⟨0x00FF#16, (opcode2 ++ 0b1101#4).setWidth 16⟩

/-- The opcode-table row an instruction is an element of (R91, R92). -/
def Instr.row : Instr → OpcodeRow
  | .ldr _ _ => rowByOpcode1 0b0000#4
  | .ldru _ _ => rowByOpcode1 0b0001#4
  | .ldAtMptr _ _ => rowByOpcode1 0b0010#4
  | .stAtMptr _ _ => rowByOpcode1 0b0011#4
  | .ldbAtMptr _ _ => rowByOpcode1 0b0100#4
  | .stbAtMptr _ _ => rowByOpcode1 0b0101#4
  | .lda _ => rowByOpcode1 0b0110#4
  | .ldmptr _ => rowByOpcode1 0b0111#4
  | .ldmptru _ => rowByOpcode1 0b1000#4
  | .mov _ _ => rowByOpcode1 0b1001#4
  | .movFromPc _ => ⟨0xFC0F#16, 0xFC09#16⟩
  | .jmp _ => ⟨0x03FF#16, 0x03F9#16⟩
  | .sjmp _ => rowByOpcode1 0b1010#4
  | .sjmpf _ => rowByOpcode1 0b1011#4
  | .add _ => rowRType 0b000001#6
  | .sub _ => rowRType 0b000010#6
  | .sla _ => rowRType 0b000011#6
  | .sra _ => rowRType 0b000100#6
  | .sll _ => rowRType 0b000101#6
  | .srl _ => rowRType 0b000110#6
  | .and _ => rowRType 0b000111#6
  | .or _ => rowRType 0b001000#6
  | .xor _ => rowRType 0b001001#6
  | .cl _ => rowRType 0b001010#6
  | .cg _ => rowRType 0b001011#6
  | .ce _ => rowRType 0b001100#6
  | .adc _ => rowRType 0b001101#6
  | .sbb _ => rowRType 0b001110#6
  | .notf _ => rowRType 0b010000#6
  | .slai _ => rowRType 0b100011#6
  | .srai _ => rowRType 0b100100#6
  | .slli _ => rowRType 0b100101#6
  | .srli _ => rowRType 0b100110#6
  | .ldau _ => rowRType 0b111011#6
  | .pop _ => rowRType 0b111100#6
  | .push _ => rowRType 0b111101#6
  | .inc _ => rowRType 0b111110#6
  | .dec _ => rowRType 0b111111#6
  | .addi _ => rowEType 0b0001#4
  | .andi _ => rowEType 0b0111#4
  | .ori _ => rowEType 0b1000#4
  | .xori _ => rowEType 0b1001#4
  | .cli _ => rowEType 0b1010#4
  | .cgi _ => rowEType 0b1011#4
  | .cei _ => rowEType 0b1100#4
  | .adci _ => rowEType 0b1101#4
  | .sbbi _ => rowEType 0b1110#4

end Sys2Proof
end

