-- ==== Sys2Proof/Machine/State.lean ====
section
/-! DEFINITION. The state of an SRP16 machine, the reasons a step can stop, and the state after reset. -/

namespace Sys2Proof.Machine

/-- Memory (R30): the written bytes as (address, byte) pairs, addresses strictly rising. A byte that is not listed is
unwritten (R37); it has no value, and reading it stops the step (log 12). -/
abbrev Memory := List Host.Cell

/-- The whole state (R20 to R38, R62) and the parameters the host fixed before the first step (R6, R223). -/
structure State where
  /-- R0 to R31, by number (R20). -/
  gpr : Vector Word 32
  /-- The accumulator A, register ID 60 (R23). -/
  acc : Word
  /-- The memory pointer MPTR, register ID 61 (R24). -/
  mptr : Word
  /-- The stack pointer SP, register ID 62 (R25). -/
  sp : Word
  /-- The program counter, register ID 63: the address of the instruction being executed (R26). -/
  pc : Word
  /-- The flag bit (R28). -/
  flag : Bool
  /-- The carry bit of CARRY_MODEL = separate (R29). -/
  carry : Bool
  /-- The written bytes of memory (R30, R37). -/
  mem : Memory
  /-- WrittenSet, the addresses stored to since reset, strictly rising (R62). -/
  writtenSet : List Nat
  /-- The MODEL's own field (log 13): how many free bits CarryIn() has drawn under CARRY_MODEL = draw. -/
  draws : Nat
  /-- The open parameters of R6, fixed by the host before the first step; no step changes them (log 1). -/
  params : Params
deriving DecidableEq, Repr

/-- The stops that come from an address: the `refuse` reasons of R12 a fetch or a data access raises. SRP16 has no exceptions
(R200): a fault here is the model giving no next state, not an event of the hardware (log 15). All are safe. -/
inductive Fault where
  /-- Raised by LD@MPTR, ST@MPTR, POP and PUSH: a 2-byte access at an odd address under MISALIGNED = refuse (R56). Safe. -/
  | misalignedAccess (addr : Word)
  /-- Raised by the fetch at an odd pc under MISALIGNED = refuse (R57). Safe. -/
  | misalignedFetch (addr : Word)
  /-- Raised by a fetch or a data access of a byte at an address of MEM_SIZE or more (R50, R56, R57). Safe. -/
  | unpopulatedAddress (addr : Word)
  /-- Raised by the fetch of a byte in WrittenSet under FETCH_COHERENCE = refuse-written (R57, R62). Safe. -/
  | fetchOfWrittenByte (addr : Word)
  /-- Raised by a fetch, or a read of LD@MPTR, LDB@MPTR or POP, of a byte nothing has written (R37, R56, R57). Safe. -/
  | unwrittenRead (addr : Word)
deriving DecidableEq, Repr

/-- The stops that come from the instruction word: the other two `refuse` reasons of R12, and the host's own. All are safe. -/
inductive Refusal where
  /-- Raised by the dispatch for an instruction that has no meaning yet. Safe. -/
  | notModelled (mnemonic : String)
  /-- Raised by the step: the fetched word matches no row of the opcode table (R94). Safe. -/
  | reservedEncoding (iw : Word)
  /-- Raised by MOV, PUSH, POP, INC, DEC, the register ALU instructions and the register compares: a register ID the
  instruction may not use (R33 to R35, R95). Safe. -/
  | reservedRegisterId (id : RegId)
deriving DecidableEq, Repr

/-- The state after reset under given parameters: pc at RESET_PC, nothing in memory, WrittenSet empty (R36, R220). Every
other register holds the value of log 11. -/
def State.resetWith (p : Params) : State where
  gpr := Vector.replicate 32 unstatedResetWord
  acc := unstatedResetWord
  mptr := unstatedResetWord
  sp := unstatedResetWord
  pc := p.resetPc
  flag := unstatedResetBit
  carry := unstatedResetBit
  mem := []
  writtenSet := []
  draws := 0
  params := p

/-- The machine right after reset, with the default parameters of R6 (R36, R220). -/
def State.reset : State := State.resetWith defaultParams

end Sys2Proof.Machine
end

