-- ==== Sys2Proof/Machine/Memory.lean ====
section
/-! DEFINITION. Memory as a canonical list of written bytes, and WrittenSet as a canonical list of addresses. -/

namespace Sys2Proof.Machine

/-- What an unlisted address reads as: no value, the byte is unwritten (R37; log 12). -/
def unlistedByte : Option Byte := none

/-- The byte at an address, if something has written it (R30, R37). -/
def Memory.read : Memory → Nat → Option Byte
  | [], _ => unlistedByte
  | (b, v) :: rest, a => if a = b then some v else Memory.read rest a

/-- Memory with one byte written, in its place in the rising order. -/
def Memory.write : Memory → Nat → Byte → Memory
  | [], a, v => [(a, v)]
  | (b, w) :: rest, a, v =>
    if a < b then (a, v) :: (b, w) :: rest
    else if a = b then (a, v) :: rest
    else (b, w) :: Memory.write rest a v

/-- Every key of a memory is at least `n`, the keys rise strictly, and all are 16-bit addresses (R30). -/
def Memory.wfFrom : Nat → Memory → Bool
  | _, [] => true
  | n, (a, _) :: rest => decide (n ≤ a) && decide (a < 65536) && Memory.wfFrom (a + 1) rest

/-- The canonical form: addresses strictly rising, all below 65536. No entry can equal what an unlisted address reads as,
since that is no value. -/
def Memory.wf (m : Memory) : Bool := Memory.wfFrom 0 m

/-- WrittenSet with one address added, in its place in the rising order (R62). -/
def addAddress : List Nat → Nat → List Nat
  | [], a => [a]
  | b :: rest, a =>
    if a < b then a :: b :: rest
    else if a = b then b :: rest
    else b :: addAddress rest a

/-- The canonical form of WrittenSet from `n` up: strictly rising 16-bit addresses. -/
def addressesWfFrom : Nat → List Nat → Bool
  | _, [] => true
  | n, a :: rest => decide (n ≤ a) && decide (a < 65536) && addressesWfFrom (a + 1) rest

/-- The canonical form of WrittenSet: strictly rising 16-bit addresses. -/
def addressesWf (l : List Nat) : Bool := addressesWfFrom 0 l

end Sys2Proof.Machine
end

