-- ==== Sys2Proof/Machine/Ops.lean ====
section
/-! DEFINITION. The named operations over registers and memory: register access, the access primitives MemRead and MemWrite with
their checks (R54 to R56), fetch (R57), and the advance of pc (R27). SRP16 raises no exception and has no exception entry, no
saved pc and no return from exception (R200, R204, R205): there is no operation for one. -/

namespace Sys2Proof.Machine

/-- The outcome of a step or a meaning. -/
abbrev Result := Host.Outcome State Fault Refusal

/-! ### General purpose registers and pc -/

/-- The value of Ri (R20). No register is hardwired (R21). -/
def State.getR (s : State) (i : BitVec 5) : Word := s.gpr[i.toNat]'i.isLt

/-- Ri written (R20, R21). -/
def State.setR (s : State) (i : BitVec 5) (v : Word) : State := { s with gpr := s.gpr.set i.toNat v i.isLt }

/-- The pc assignment of every instruction that does not jump: pc + 2 modulo 65536 (R27). -/
def State.advance (s : State) : State := { s with pc := s.pc + 2#16 }

/-! ### Bytes of memory -/

/-- The byte at a 16-bit address, if it is written (R30, R37). -/
def State.byteAt (s : State) (addr : Word) : Option Byte := s.mem.read addr.toNat

/-- `note_written` (R55, R62): under FETCH_COHERENCE = coherent it does nothing. -/
def State.noteWritten (s : State) (addr : Word) : State :=
  match s.params.fetchCoherence with
  | .refuseWritten => { s with writtenSet := addAddress s.writtenSet addr.toNat }
  | .coherent => s

/-- One byte stored: `mem[addr] <- v` and `note_written(addr)` (R55). -/
def State.storeByte (s : State) (addr : Word) (v : Byte) : State :=
  { s with mem := s.mem.write addr.toNat v }.noteWritten addr

/-- A 16-bit value stored little endian at `addr` and `addr + 1` modulo 65536 (R52, R55). -/
def State.storeWord (s : State) (addr : Word) (v : Word) : State :=
  (s.storeByte addr (lowByte v)).storeByte (addr + 1#16) (highByte v)

/-! ### The admission of an access (R56) -/

/-- The width of a data access (R11, R54). -/
inductive Width where
  | one
  | two
deriving DecidableEq, Repr

/-- The byte addresses an access touches, in the order R56 checks them; a 2-byte access wraps modulo 65536. -/
def touched (addr : Word) : Width → List Word
  | .one => [addr]
  | .two => [addr, addr + 1#16]

/-- Bit 0 of an address is 1. -/
def isOdd (addr : Word) : Bool := addr.getLsbD 0

/-- The first address of a list that is not populated (R50). -/
def State.firstUnpopulated (s : State) (addrs : List Word) : Option Word :=
  addrs.find? (fun b => decide (s.params.memSize ≤ b.toNat))

/-- `Check(addr, n)` up to the test for unwritten bytes: alignment, then population (R56, R203). -/
def State.check (s : State) (addr : Word) (n : Width) : Option Fault :=
  if n = .two ∧ isOdd addr ∧ s.params.misaligned = .refuse then some (.misalignedAccess addr)
  else (s.firstUnpopulated (touched addr n)).map .unpopulatedAddress

/-- A written byte, or the stop of R37 and R56. -/
def State.readWritten (s : State) (addr : Word) : Except Fault Byte :=
  match s.byteAt addr with
  | some v => .ok v
  | none => .error (.unwrittenRead addr)

/-- `MemRead(addr, 1)` (R54). -/
def State.memRead1 (s : State) (addr : Word) : Except Fault Byte :=
  match s.check addr .one with
  | some f => .error f
  | none => s.readWritten addr

/-- `MemRead(addr, 2)`, little endian (R54). -/
def State.memRead2 (s : State) (addr : Word) : Except Fault Word :=
  match s.check addr .two with
  | some f => .error f
  | none =>
    match s.readWritten addr with
    | .error f => .error f
    | .ok lo =>
      match s.readWritten (addr + 1#16) with
      | .error f => .error f
      | .ok hi => .ok (wordOfBytes lo hi)

/-- `MemWrite(addr, 1, v)` (R55). -/
def State.memWrite1 (s : State) (addr : Word) (v : Byte) : Except Fault State :=
  match s.check addr .one with
  | some f => .error f
  | none => .ok (s.storeByte addr v)

/-- `MemWrite(addr, 2, v)`, little endian (R55). -/
def State.memWrite2 (s : State) (addr : Word) (v : Word) : Except Fault State :=
  match s.check addr .two with
  | some f => .error f
  | none => .ok (s.storeWord addr v)

/-- Continue with what a memory primitive gives, or stop with its fault and no change of state (R203). -/
def onMemory {α : Type} (x : Except Fault α) (k : α → Result) : Result :=
  match x with
  | .ok v => k v
  | .error f => .fault f

/-! ### Fetch (R57) -/

/-- One byte of an instruction: population, then written, then FETCH_COHERENCE (R57, R203). -/
def State.fetchByte (s : State) (addr : Word) : Except Fault Byte :=
  if s.params.memSize ≤ addr.toNat then .error (.unpopulatedAddress addr)
  else
    match s.byteAt addr with
    | none => .error (.unwrittenRead addr)
    | some v =>
      if s.params.fetchCoherence = .refuseWritten ∧ addr.toNat ∈ s.writtenSet then .error (.fetchOfWrittenByte addr)
      else .ok v

/-- `Fetch(pc)`: the instruction word at pc, little endian (R57, D3). -/
def State.fetch (s : State) : Except Fault Word :=
  if isOdd s.pc ∧ s.params.misaligned = .refuse then .error (.misalignedFetch s.pc)
  else
    match s.fetchByte s.pc with
    | .error f => .error f
    | .ok lo =>
      match s.fetchByte (s.pc + 1#16) with
      | .error f => .error f
      | .ok hi => .ok (wordOfBytes lo hi)

/-! ### Loading from outside (R223 step 3) -/

/-- One byte of an image loaded by the host: marked written, not entered in WrittenSet (R62, R223). -/
def State.loadByte (s : State) (addr : Word) (v : Byte) : State :=
  { s with mem := s.mem.write addr.toNat v, writtenSet := s.writtenSet.filter (· != addr.toNat) }

/-- An instruction word loaded at an address: its low byte there, its high byte at the next address (R223 step 3). -/
def State.loadWord (s : State) (addr : Word) (iw : Word) : State :=
  (s.loadByte addr (lowByte iw)).loadByte (addr + 1#16) (highByte iw)

end Sys2Proof.Machine
end

