-- ==== Sys2Proof/Machine/Operands.lean ====
section
/-! DEFINITION. Operand forms: extension of immediates (R9, R87), E-type registers, registers by 6-bit ID in the classes of
R34 and R35, partial register values (R111, R114, R118, R119). -/

namespace Sys2Proof.Machine

/-! ### Immediates (R9, R87) -/

/-- `sext_16` of an 8-bit or 12-bit signed immediate (R9). -/
def sext16 {n : Nat} (v : BitVec n) : Word := v.signExtend 16

/-- `zext_16` of a 12-bit unsigned immediate (R9). -/
def zext16 {n : Nat} (v : BitVec n) : Word := v.setWidth 16

/-! ### Partial register writes: the bits the slice does not name keep their value (D17) -/

/-- `v[15:8] <- b` (R111). -/
def withHighByte (v : Word) (b : Byte) : Word := b ++ lowByte v

/-- `v[7:0] <- b` (R114). -/
def withLowByte (v : Word) (b : Byte) : Word := highByte v ++ b

/-- `v[15:12] <- n` (R118, R119). -/
def withTopNibble (v : Word) (n : BitVec 4) : Word := n ++ v.extractLsb' 0 12

/-- `immediate[3:0]` of the 12-bit immediate of LDMPTRU (R88, R118). -/
def lowNibble12 (imm : BitVec 12) : BitVec 4 := imm.extractLsb' 0 4

/-- `immediate[3:0]` of the 6-bit immediate of LDAU (R88, R119). -/
def lowNibble6 (imm : BitVec 6) : BitVec 4 := imm.extractLsb' 0 4

/-! ### Registers by number -/

/-- The general purpose register an E-type word's 4-bit field names: R0 to R15 (R32, R83). -/
def etypeReg (rx : BitVec 4) : BitVec 5 := rx.setWidth 5

/-- The general purpose register a 6-bit ID of 0 to 31 names (R32). -/
def gprOfId (id : RegId) : BitVec 5 := id.setWidth 5

/-- The instruction classes of R34 that read a 6-bit register ID. -/
inductive RegClass where
  /-- MOV: IDs 0 to 31 and 60 to 63. -/
  | mov
  /-- PUSH, POP, INC, DEC: IDs 0 to 31. -/
  | stack
  /-- ADD to SRL, CL, CG, CE: IDs 0 to 31 and 60 to 62. -/
  | alu
deriving DecidableEq, Repr

/-- A class allows the special registers A, MPTR and SP (R34). -/
def RegClass.allowsSpecial : RegClass → Bool
  | .mov => true
  | .stack => false
  | .alu => true

/-- Register read by ID, `x[id]`, in a class; `none` is `refuse ReservedRegisterId` (R33, R34). The PC's ID reads pc + 4,
in the class MOV alone (R131). -/
def State.readId (s : State) (cls : RegClass) (id : RegId) : Option Word :=
  if id.toNat < 32 then some (s.getR (gprOfId id))
  else if id = 60#6 ∧ cls.allowsSpecial then some s.acc
  else if id = 61#6 ∧ cls.allowsSpecial then some s.mptr
  else if id = 62#6 ∧ cls.allowsSpecial then some s.sp
  else if id = 63#6 ∧ cls = .mov then some (s.pc + 4#16)
  else none

/-- Register write by ID, `x[id] <- v`, and the pc assignment of the instruction: the PC's ID is the jump target, every other
write is followed by pc + 2 (R27, R35, R132). `none` is `refuse ReservedRegisterId`. -/
def State.writeId (s : State) (cls : RegClass) (id : RegId) (v : Word) : Option State :=
  if id.toNat < 32 then some (s.setR (gprOfId id) v).advance
  else if id = 60#6 ∧ cls = .mov then some { s with acc := v }.advance
  else if id = 61#6 ∧ cls = .mov then some { s with mptr := v }.advance
  else if id = 62#6 ∧ cls = .mov then some { s with sp := v }.advance
  else if id = 63#6 ∧ cls = .mov then some { s with pc := v }
  else none

/-- Continue with the value of a register operand, or refuse its ID (R34). -/
def State.withOperand (s : State) (cls : RegClass) (id : RegId) (k : Word → Result) : Result :=
  match s.readId cls id with
  | some v => k v
  | none => .refused (.reservedRegisterId id)

/-- `x[id] <- v` as the end of an instruction, or the refusal of the ID (R35). -/
def State.intoRegister (s : State) (cls : RegClass) (id : RegId) (v : Word) : Result :=
  match s.writeId cls id v with
  | some t => .next t
  | none => .refused (.reservedRegisterId id)

/-- `x[register1] <- x[register2]`: the three forms of MOV and the word with both fields 63 (R130, R131, R132, R135). -/
def State.moveRegister (s : State) (register1 register2 : RegId) : Result :=
  s.withOperand .mov register2 (fun v => s.intoRegister .mov register1 v)

end Sys2Proof.Machine
end

