-- ==== Sys2Proof/Machine/Flags.lean ====
section
/-! DEFINITION. The arithmetic laws (R160 to R162), carry (R29), and the order relation of the compares (R197). -/

namespace Sys2Proof.Machine

/-! ### Addition and subtraction -/

/-- A bit as a number 0 or 1. -/
def bitNat (b : Bool) : Nat := if b then 1 else 0

/-- `AddC(a, b, cin)`: the sum modulo 65536 and the carry out of bit 15, from the exact sum (R160). -/
def addC (a b : Word) (cin : Bool) : Word × Bool :=
  let s := a.toNat + b.toNat + bitNat cin
  (BitVec.ofNat 16 s, decide (65536 ≤ s))

/-- `SubB(a, b, bin)`: the difference modulo 65536 and the borrow, from the exact difference (R161). -/
def subB (a b : Word) (bin : Bool) : Word × Bool :=
  let d : Int := (a.toNat : Int) - (b.toNat : Int) - (bitNat bin : Int)
  (BitVec.ofInt 16 d, decide (d < 0))

/-! ### Shifts (R162) -/

/-- `Amount(n)` under SHIFT_MODEL (R162). -/
def shiftAmount (m : ShiftModel) (n : Nat) : Nat :=
  match m with
  | .full => n
  | .mod16 => n % 16

/-- `shl`, the arithmetic and the logical left shift (R162, D24). -/
def shl (m : ShiftModel) (a : Word) (n : Nat) : Word := a <<< shiftAmount m n

/-- `shr_l`, the logical right shift (R162). -/
def shrL (m : ShiftModel) (a : Word) (n : Nat) : Word := a >>> shiftAmount m n

/-- `shr_a`, the arithmetic right shift (R162). -/
def shrA (m : ShiftModel) (a : Word) (n : Nat) : Word := a.sshiftRight (shiftAmount m n)

/-! ### Carry (R29) -/

/-- `CarryIn()`: the bit ADC, ADCI, SBB and SBBI read, and the state after the call. Under CARRY_MODEL = draw the bit is the
free value of log 13 and the counter moves on, so that the next call has a fresh one. -/
def State.carryIn (s : State) : Bool × State :=
  match s.params.carryModel with
  | .separate => (s.carry, s)
  | .flag => (s.flag, s)
  | .draw => (Config.freeCarry s.draws, { s with draws := s.draws + 1 })

/-- `SetCarry(b)`: it writes carry under CARRY_MODEL = separate and does nothing under the other two (R29). -/
def State.setCarry (s : State) (b : Bool) : State :=
  match s.params.carryModel with
  | .separate => { s with carry := b }
  | .flag => s
  | .draw => s

/-! ### Results into A -/

/-- A written, pc advanced; neither flag nor carry is written. -/
def State.intoAcc (s : State) (v : Word) : Result := .next { s with acc := v }.advance

/-- `(A, c) <- r`, `SetCarry(c)`, pc advanced (R150 to R152, R170 to R173). -/
def State.intoAccCarry (s : State) (r : Word × Bool) : Result := .next ({ s with acc := r.1 }.setCarry r.2).advance

/-- `(A, cout) <- AddC(A, b, CarryIn())`, `SetCarry(cout)` (R151, R172). -/
def State.addWithCarry (s : State) (b : Word) : Result :=
  let (c, s') := s.carryIn
  s'.intoAccCarry (addC s.acc b c)

/-- `(A, bout) <- SubB(A, b, CarryIn())`, `SetCarry(bout)` (R152, R173). -/
def State.subWithBorrow (s : State) (b : Word) : Result :=
  let (c, s') := s.carryIn
  s'.intoAccCarry (subB s.acc b c)

/-! ### The order relation (R197) -/

/-- `Less(a, b)` under CMP_SIGNED (R197). -/
def less (m : CompareModel) (a b : Word) : Bool :=
  match m with
  | .signed => decide (a.toInt < b.toInt)
  | .unsigned => decide (a.toNat < b.toNat)

/-- `Greater(a, b) = Less(b, a)` (R197). -/
def greater (m : CompareModel) (a b : Word) : Bool := less m b a

/-- The flag bit written, pc advanced (R28, R190 to R196). -/
def State.intoFlag (s : State) (b : Bool) : Result := .next { s with flag := b }.advance

end Sys2Proof.Machine
end

