-- ==== Sys2Proof/Machine/ArithImm.lean ====
section
/-! DEFINITION. Immediate arithmetic, logic and shift instructions (R150 to R159). None of them writes flag. -/

namespace Sys2Proof.Machine

/-- ADDI: `(A, cout) <- AddC(A, sext_16(imm8), 0)`, `SetCarry(cout)` (R150). -/
def execAddi (imm8 : BitVec 8) (s : State) : Result := s.intoAccCarry (addC s.acc (sext16 imm8) false)

/-- ADCI: `(A, cout) <- AddC(A, sext_16(imm8), CarryIn())`, `SetCarry(cout)` (R151). -/
def execAdci (imm8 : BitVec 8) (s : State) : Result := s.addWithCarry (sext16 imm8)

/-- SBBI: `(A, bout) <- SubB(A, sext_16(imm8), CarryIn())`, `SetCarry(bout)` (R152). -/
def execSbbi (imm8 : BitVec 8) (s : State) : Result := s.subWithBorrow (sext16 imm8)

/-- ANDI: `A <- A & sext_16(imm8)` (R153). -/
def execAndi (imm8 : BitVec 8) (s : State) : Result := s.intoAcc (s.acc &&& sext16 imm8)

/-- ORI: `A <- A | sext_16(imm8)` (R154). -/
def execOri (imm8 : BitVec 8) (s : State) : Result := s.intoAcc (s.acc ||| sext16 imm8)

/-- XORI: `A <- A ^ sext_16(imm8)` (R155). -/
def execXori (imm8 : BitVec 8) (s : State) : Result := s.intoAcc (s.acc ^^^ sext16 imm8)

/-- SLAI: `A <- shl(A, imm6)` (R156). -/
def execSlai (imm6 : BitVec 6) (s : State) : Result := s.intoAcc (shl s.params.shiftModel s.acc imm6.toNat)

/-- SRAI: `A <- shr_a(A, imm6)` (R157). -/
def execSrai (imm6 : BitVec 6) (s : State) : Result := s.intoAcc (shrA s.params.shiftModel s.acc imm6.toNat)

/-- SLLI: `A <- shl(A, imm6)` (R158). -/
def execSlli (imm6 : BitVec 6) (s : State) : Result := s.intoAcc (shl s.params.shiftModel s.acc imm6.toNat)

/-- SRLI: `A <- shr_l(A, imm6)` (R159). -/
def execSrli (imm6 : BitVec 6) (s : State) : Result := s.intoAcc (shrL s.params.shiftModel s.acc imm6.toNat)

end Sys2Proof.Machine
end

