-- ==== Sys2Proof/Machine/ArithReg.lean ====
section
/-! DEFINITION. Register arithmetic, logic and shift instructions (R170 to R180). A is the first operand and the destination; the
second operand is read by ID in the class ALU (R34). None of them writes flag. -/

namespace Sys2Proof.Machine

/-- ADD: `(A, cout) <- AddC(A, x[reg6], 0)`, `SetCarry(cout)` (R170). -/
def execAdd (reg6 : RegId) (s : State) : Result :=
  s.withOperand .alu reg6 fun b => s.intoAccCarry (addC s.acc b false)

/-- SUB: `(A, bout) <- SubB(A, x[reg6], 0)`, `SetCarry(bout)` (R171). -/
def execSub (reg6 : RegId) (s : State) : Result :=
  s.withOperand .alu reg6 fun b => s.intoAccCarry (subB s.acc b false)

/-- ADC: `(A, cout) <- AddC(A, x[reg6], CarryIn())`, `SetCarry(cout)` (R172). -/
def execAdc (reg6 : RegId) (s : State) : Result := s.withOperand .alu reg6 fun b => s.addWithCarry b

/-- SBB: `(A, bout) <- SubB(A, x[reg6], CarryIn())`, `SetCarry(bout)` (R173). -/
def execSbb (reg6 : RegId) (s : State) : Result := s.withOperand .alu reg6 fun b => s.subWithBorrow b

/-- AND: `A <- A & x[reg6]` (R174). -/
def execAnd (reg6 : RegId) (s : State) : Result := s.withOperand .alu reg6 fun b => s.intoAcc (s.acc &&& b)

/-- OR: `A <- A | x[reg6]` (R175). -/
def execOr (reg6 : RegId) (s : State) : Result := s.withOperand .alu reg6 fun b => s.intoAcc (s.acc ||| b)

/-- XOR: `A <- A ^ x[reg6]` (R176). -/
def execXor (reg6 : RegId) (s : State) : Result := s.withOperand .alu reg6 fun b => s.intoAcc (s.acc ^^^ b)

/-- SLA: `A <- shl(A, x[reg6])`, the amount the whole 16-bit value, unsigned (R177). -/
def execSla (reg6 : RegId) (s : State) : Result :=
  s.withOperand .alu reg6 fun b => s.intoAcc (shl s.params.shiftModel s.acc b.toNat)

/-- SRA: `A <- shr_a(A, x[reg6])` (R178). -/
def execSra (reg6 : RegId) (s : State) : Result :=
  s.withOperand .alu reg6 fun b => s.intoAcc (shrA s.params.shiftModel s.acc b.toNat)

/-- SLL: `A <- shl(A, x[reg6])` (R179). -/
def execSll (reg6 : RegId) (s : State) : Result :=
  s.withOperand .alu reg6 fun b => s.intoAcc (shl s.params.shiftModel s.acc b.toNat)

/-- SRL: `A <- shr_l(A, x[reg6])` (R180). -/
def execSrl (reg6 : RegId) (s : State) : Result :=
  s.withOperand .alu reg6 fun b => s.intoAcc (shrL s.params.shiftModel s.acc b.toNat)

end Sys2Proof.Machine
end

