-- ==== Sys2Proof/Machine/Compare.lean ====
section
/-! DEFINITION. Compare and flag instructions (R190 to R196): the only ones that write the flag bit (R28). None writes carry. -/

namespace Sys2Proof.Machine

/-- CLI: `flag <- Less(A, sext_16(imm8))` (R190). -/
def execCli (imm8 : BitVec 8) (s : State) : Result := s.intoFlag (less s.params.compareModel s.acc (sext16 imm8))

/-- CGI: `flag <- Greater(A, sext_16(imm8))` (R191). -/
def execCgi (imm8 : BitVec 8) (s : State) : Result := s.intoFlag (greater s.params.compareModel s.acc (sext16 imm8))

/-- CEI: `flag <- (A = sext_16(imm8))` (R192). -/
def execCei (imm8 : BitVec 8) (s : State) : Result := s.intoFlag (s.acc == sext16 imm8)

/-- CL: `flag <- Less(A, x[reg6])` (R193). -/
def execCl (reg6 : RegId) (s : State) : Result :=
  s.withOperand .alu reg6 fun b => s.intoFlag (less s.params.compareModel s.acc b)

/-- CG: `flag <- Greater(A, x[reg6])` (R194). -/
def execCg (reg6 : RegId) (s : State) : Result :=
  s.withOperand .alu reg6 fun b => s.intoFlag (greater s.params.compareModel s.acc b)

/-- CE: `flag <- (A = x[reg6])` (R195). -/
def execCe (reg6 : RegId) (s : State) : Result := s.withOperand .alu reg6 fun b => s.intoFlag (s.acc == b)

/-- NOTF: `flag <- 1 - flag`; the third field is a don't-care (R196). -/
def execNotf (_opcode3 : BitVec 6) (s : State) : Result := s.intoFlag (!s.flag)

end Sys2Proof.Machine
end

