-- ==== Sys2Proof/Machine/Load.lean ====
section
/-! DEFINITION. Load and store instructions (R110 to R119). None of them writes flag or carry. -/

namespace Sys2Proof.Machine

/-- The post-modification of MPTR by a signed byte offset, modulo 65536, and the advance of pc (R112 to R115). -/
def State.bumpMptr (s : State) (off : BitVec 8) : State := { s with mptr := s.mptr + sext16 off }.advance

/-- LDR: `R[rx] <- sext_16(imm8)` (R110). -/
def execLdr (rx : BitVec 4) (imm8 : BitVec 8) (s : State) : Result :=
  .next (s.setR (etypeReg rx) (sext16 imm8)).advance

/-- LDRU: `R[rx][15:8] <- imm8` (R111). -/
def execLdru (rx : BitVec 4) (imm8 : BitVec 8) (s : State) : Result :=
  .next (s.setR (etypeReg rx) (withHighByte (s.getR (etypeReg rx)) imm8)).advance

/-- LD@MPTR: a 2-byte load at MPTR, then `MPTR <- MPTR + sext_16(imm8)` (R112). -/
def execLdAtMptr (rx : BitVec 4) (imm8 : BitVec 8) (s : State) : Result :=
  onMemory (s.memRead2 s.mptr) fun v => .next ((s.setR (etypeReg rx) v).bumpMptr imm8)

/-- ST@MPTR: a 2-byte store at MPTR, then `MPTR <- MPTR + sext_16(imm8)` (R113). -/
def execStAtMptr (rx : BitVec 4) (imm8 : BitVec 8) (s : State) : Result :=
  onMemory (s.memWrite2 s.mptr (s.getR (etypeReg rx))) fun t => .next (t.bumpMptr imm8)

/-- LDB@MPTR: a byte loaded into `R[rx][7:0]`, then `MPTR <- MPTR + sext_16(imm8)` (R114). -/
def execLdbAtMptr (rx : BitVec 4) (imm8 : BitVec 8) (s : State) : Result :=
  onMemory (s.memRead1 s.mptr) fun b =>
    .next ((s.setR (etypeReg rx) (withLowByte (s.getR (etypeReg rx)) b)).bumpMptr imm8)

/-- STB@MPTR: `R[rx][7:0]` stored at MPTR, then `MPTR <- MPTR + sext_16(imm8)` (R115). -/
def execStbAtMptr (rx : BitVec 4) (imm8 : BitVec 8) (s : State) : Result :=
  onMemory (s.memWrite1 s.mptr (lowByte (s.getR (etypeReg rx)))) fun t => .next (t.bumpMptr imm8)

/-- LDA: `A <- sext_16(imm12)` (R116). -/
def execLda (imm12 : BitVec 12) (s : State) : Result := .next { s with acc := sext16 imm12 }.advance

/-- LDMPTR: `MPTR <- zext_16(imm12)` (R117). -/
def execLdmptr (imm12 : BitVec 12) (s : State) : Result := .next { s with mptr := zext16 imm12 }.advance

/-- LDMPTRU: `MPTR[15:12] <- imm12[3:0]` (R118). -/
def execLdmptru (imm12 : BitVec 12) (s : State) : Result :=
  .next { s with mptr := withTopNibble s.mptr (lowNibble12 imm12) }.advance

/-- LDAU: `A[15:12] <- imm6[3:0]` (R119). -/
def execLdau (imm6 : BitVec 6) (s : State) : Result :=
  .next { s with acc := withTopNibble s.acc (lowNibble6 imm6) }.advance

end Sys2Proof.Machine
end

