-- ==== Sys2Proof/Machine/Move.lean ====
section
/-! DEFINITION. Move and jump instructions (R130 to R135). None of them writes flag or carry; there is no delay slot (R225). -/

namespace Sys2Proof.Machine

/-- MOV: `x[register1] <- x[register2]` (R130). -/
def execMov (register1 register2 : RegId) (s : State) : Result := s.moveRegister register1 register2

/-- MOV Rx, PC: `x[register1] <- pc + 4`; with register1 the PC's ID too, `pc <- pc + 4` (R131, R135). -/
def execMovFromPc (register1 : RegId) (s : State) : Result := s.moveRegister register1 RegId.pcId

/-- JMP: `pc <- x[register2]` (R132). -/
def execJmp (register2 : RegId) (s : State) : Result := s.moveRegister RegId.pcId register2

/-- The target of SJMP and SJMPF: the branch base plus the signed byte offset, modulo 65536 (R133, BRANCH_BASE). -/
def State.branchTarget (s : State) (off : BitVec 12) : Word :=
  match s.params.branchBase with
  | .self => s.pc + sext16 off
  | .next => s.pc + 2#16 + sext16 off

/-- SJMP: `pc <- pc + sext_16(imm12)` (R133). -/
def execSjmp (imm12 : BitVec 12) (s : State) : Result := .next { s with pc := s.branchTarget imm12 }

/-- SJMPF: as SJMP when flag is 1, else `pc <- pc + 2` (R134). -/
def execSjmpf (imm12 : BitVec 12) (s : State) : Result :=
  if s.flag then .next { s with pc := s.branchTarget imm12 } else .next s.advance

end Sys2Proof.Machine
end

