-- ==== Sys2Proof/Machine/Stack.lean ====
section
/-! DEFINITION. Stack, increment and decrement instructions (R140 to R143), over R0 to R31 only. The stack is full and descending,
the step of SP is 2 (R25; spec/90_conflicts.md C1). None of them writes flag or carry. -/

namespace Sys2Proof.Machine

/-- The address PUSH stores to: `(SP - 2) mod 65536` (R141). -/
def State.pushAddr (s : State) : Word := s.sp - 2#16

/-- POP: `R[reg6] <- MemRead(SP, 2)`, then `SP <- SP + 2` (R140). The ID is refused before memory is read (R203). -/
def execPop (reg6 : RegId) (s : State) : Result :=
  s.withOperand .stack reg6 fun _ =>
    onMemory (s.memRead2 s.sp) fun v => { s with sp := s.sp + 2#16 }.intoRegister .stack reg6 v

/-- PUSH: SP is decremented by 2 and the register stored at the new SP (R141). -/
def execPush (reg6 : RegId) (s : State) : Result :=
  s.withOperand .stack reg6 fun v =>
    onMemory (s.memWrite2 s.pushAddr v) fun t => .next { t with sp := s.pushAddr }.advance

/-- INC: `R[reg6] <- R[reg6] + 1` modulo 65536 (R142). -/
def execInc (reg6 : RegId) (s : State) : Result :=
  s.withOperand .stack reg6 fun v => s.intoRegister .stack reg6 (v + 1#16)

/-- DEC: `R[reg6] <- R[reg6] - 1` modulo 65536 (R143). -/
def execDec (reg6 : RegId) (s : State) : Result :=
  s.withOperand .stack reg6 fun v => s.intoRegister .stack reg6 (v - 1#16)

end Sys2Proof.Machine
end

