-- ==== Sys2Proof/Machine/Dispatch.lean ====
section
/-! DEFINITION. The dispatch: one arm per constructor of Instr, each a direct call of its meaning. -/

namespace Sys2Proof.Machine

/-- The meaning of an instruction at a state whose pc is the address of the instruction (R13). -/
def exec (i : Instr) (s : State) : Host.Outcome State Fault Refusal :=
  match i with
  | .ldr rx imm8 => Sys2Proof.Machine.execLdr rx imm8 s
  | .ldru rx imm8 => Sys2Proof.Machine.execLdru rx imm8 s
  | .ldAtMptr rx imm8 => Sys2Proof.Machine.execLdAtMptr rx imm8 s
  | .stAtMptr rx imm8 => Sys2Proof.Machine.execStAtMptr rx imm8 s
  | .ldbAtMptr rx imm8 => Sys2Proof.Machine.execLdbAtMptr rx imm8 s
  | .stbAtMptr rx imm8 => Sys2Proof.Machine.execStbAtMptr rx imm8 s
  | .lda imm12 => Sys2Proof.Machine.execLda imm12 s
  | .ldmptr imm12 => Sys2Proof.Machine.execLdmptr imm12 s
  | .ldmptru imm12 => Sys2Proof.Machine.execLdmptru imm12 s
  | .mov register1 register2 => Sys2Proof.Machine.execMov register1 register2 s
  | .movFromPc register1 => Sys2Proof.Machine.execMovFromPc register1 s
  | .jmp register2 => Sys2Proof.Machine.execJmp register2 s
  | .sjmp imm12 => Sys2Proof.Machine.execSjmp imm12 s
  | .sjmpf imm12 => Sys2Proof.Machine.execSjmpf imm12 s
  | .add reg6 => Sys2Proof.Machine.execAdd reg6 s
  | .sub reg6 => Sys2Proof.Machine.execSub reg6 s
  | .sla reg6 => Sys2Proof.Machine.execSla reg6 s
  | .sra reg6 => Sys2Proof.Machine.execSra reg6 s
  | .sll reg6 => Sys2Proof.Machine.execSll reg6 s
  | .srl reg6 => Sys2Proof.Machine.execSrl reg6 s
  | .and reg6 => Sys2Proof.Machine.execAnd reg6 s
  | .or reg6 => Sys2Proof.Machine.execOr reg6 s
  | .xor reg6 => Sys2Proof.Machine.execXor reg6 s
  | .cl reg6 => Sys2Proof.Machine.execCl reg6 s
  | .cg reg6 => Sys2Proof.Machine.execCg reg6 s
  | .ce reg6 => Sys2Proof.Machine.execCe reg6 s
  | .adc reg6 => Sys2Proof.Machine.execAdc reg6 s
  | .sbb reg6 => Sys2Proof.Machine.execSbb reg6 s
  | .notf opcode3 => Sys2Proof.Machine.execNotf opcode3 s
  | .slai imm6 => Sys2Proof.Machine.execSlai imm6 s
  | .srai imm6 => Sys2Proof.Machine.execSrai imm6 s
  | .slli imm6 => Sys2Proof.Machine.execSlli imm6 s
  | .srli imm6 => Sys2Proof.Machine.execSrli imm6 s
  | .ldau imm6 => Sys2Proof.Machine.execLdau imm6 s
  | .pop reg6 => Sys2Proof.Machine.execPop reg6 s
  | .push reg6 => Sys2Proof.Machine.execPush reg6 s
  | .inc reg6 => Sys2Proof.Machine.execInc reg6 s
  | .dec reg6 => Sys2Proof.Machine.execDec reg6 s
  | .addi imm8 => Sys2Proof.Machine.execAddi imm8 s
  | .andi imm8 => Sys2Proof.Machine.execAndi imm8 s
  | .ori imm8 => Sys2Proof.Machine.execOri imm8 s
  | .xori imm8 => Sys2Proof.Machine.execXori imm8 s
  | .cli imm8 => Sys2Proof.Machine.execCli imm8 s
  | .cgi imm8 => Sys2Proof.Machine.execCgi imm8 s
  | .cei imm8 => Sys2Proof.Machine.execCei imm8 s
  | .adci imm8 => Sys2Proof.Machine.execAdci imm8 s
  | .sbbi imm8 => Sys2Proof.Machine.execSbbi imm8 s

end Sys2Proof.Machine
end

