-- ==== Sys2Proof/Machine/Step.lean ====
section
/-! DEFINITION. One step of the core: fetch, decode, execute (R13). The meaning of each instruction assigns pc itself. -/

namespace Sys2Proof.Machine

/-- One step (R13): a fetch that stops is a fault, a word no row matches is refused (R94), else the instruction runs. -/
def step (s : State) : Host.Outcome State Fault Refusal :=
  onMemory s.fetch fun iw =>
    match decode s.params.toLayouts iw with
    | .ok i => exec i s
    | .error _ => .refused (.reservedEncoding iw)

/-- The state with the instruction of `nbits` bits `w` (every bit above them 0) loaded where the next step fetches: at pc, as
the host loads a program (R223 step 3; log 16). -/
def State.withFetchWord (s : State) (nbits w : Nat) : State := s.loadWord s.pc (BitVec.ofNat 16 (w % 2 ^ nbits))

end Sys2Proof.Machine
end

