-- ==== Sys2Proof/Machine/Launch.lean ====
section
/-! DEFINITION. The host's part: launching a run (R223) and recognising its end (R224). The host takes no step of the machine. -/

namespace Sys2Proof.Machine

/-- INIT_STATE (R6, R223 step 4): the registers, bits and memory bytes a test or a claim supplies. -/
structure InitState where
  gpr : List (BitVec 5 × Word) := []
  acc : Option Word := none
  mptr : Option Word := none
  sp : Option Word := none
  pc : Option Word := none
  flag : Option Bool := none
  carry : Option Bool := none
  mem : List (Word × Byte) := []
deriving DecidableEq, Repr

/-- An image or INIT_STATE's bytes put in memory, marked written and not entered in WrittenSet (R223 steps 3 and 4). -/
def State.loadImage (s : State) (image : List (Word × Byte)) : State :=
  image.foldl (fun t c => t.loadByte c.1 c.2) s

/-- INIT_STATE applied (R223 step 4): what it names takes the value, everything else keeps what it holds. -/
def State.applyInit (s : State) (i : InitState) : State :=
  let t := (i.gpr.foldl (fun t c => t.setR c.1 c.2) s).loadImage i.mem
  { t with
    acc := i.acc.getD t.acc
    mptr := i.mptr.getD t.mptr
    sp := i.sp.getD t.sp
    pc := i.pc.getD t.pc
    flag := i.flag.getD t.flag
    carry := i.carry.getD t.carry }

/-- The state in which a run starts: the reset state under the host's parameters, the image loaded, INIT_STATE applied
(R223 steps 1 to 4). -/
def launch (p : Params) (image : List (Word × Byte)) (i : InitState) : State :=
  ((State.resetWith p).loadImage image).applyInit i

/-- A run has ended: the step leaves the whole state unchanged (R224). -/
def State.atEnd (s : State) : Bool :=
  match step s with
  | .next t => decide (t = s)
  | .fault _ => false
  | .refused _ => false

/-- What a run bounded by fuel gives (R224): running out of fuel is no result, not an end. -/
inductive RunResult where
  | ended (s : State)
  | faulted (r : Fault)
  | refused (r : Refusal)
  | outOfFuel
deriving DecidableEq, Repr

/-- A run of at most `fuel` steps from a state, to its end, its stop, or no result (R223 step 5, R224). -/
def runToEnd : Nat → State → RunResult
  | 0, s => if s.atEnd then .ended s else .outOfFuel
  | fuel + 1, s =>
    match step s with
    | .next t => if t = s then .ended s else runToEnd fuel t
    | .fault r => .faulted r
    | .refused r => .refused r

end Sys2Proof.Machine
end

