-- ==== Sys2Proof/Safety.lean ====
section
/-! DEFINITION. The terms the statements use: the machine invariant, when a data access is admitted, which access an instruction
makes (R58), and which general purpose registers its fields name (R22). -/

namespace Sys2Proof.Machine

/-! ### The invariant -/

/-- Parameters within the bounds the spec gives: MEM_SIZE at most 65536 (R50). -/
def paramsInBounds (p : Params) : Bool := decide (p.memSize ≤ 65536)

/-- WrittenSet is canonical, every address in it is populated and holds a written byte, and under FETCH_COHERENCE = coherent,
where `note_written` does nothing, it is empty (R55, R56, R62). -/
def State.writtenSetOk (s : State) : Bool :=
  addressesWf s.writtenSet
    && s.writtenSet.all (fun a => decide (a < s.params.memSize) && (s.mem.read a).isSome)
    && (s.params.fetchCoherence == .refuseWritten || s.writtenSet.isEmpty)

/-- The free-bit counter moves under CARRY_MODEL = draw only (R29; log 13). -/
def State.drawsOk (s : State) : Bool := s.params.carryModel == .draw || s.draws == 0

/-- The invariant every step keeps: canonical memory and WrittenSet, and the model's bookkeeping used only where the
parameters ask for it. -/
def State.invariant (s : State) : Bool := s.mem.wf && s.writtenSetOk && s.drawsOk && paramsInBounds s.params

/-! ### Admitted accesses -/

/-- The access passes the checks of R56 that do not look at the bytes: a 2-byte access at an odd address only under
MISALIGNED = split, and every byte touched populated. -/
abbrev State.admits (s : State) (addr : Word) (n : Width) : Prop :=
  (n = .two → isOdd addr = true → s.params.misaligned = .split) ∧ ∀ b ∈ touched addr n, b.toNat < s.params.memSize

/-- Every byte a read touches has been written (R37, R56). -/
abbrev State.holds (s : State) (addr : Word) (n : Width) : Prop := ∀ b ∈ touched addr n, (s.byteAt b).isSome = true

/-- The data access of an instruction (R58). -/
inductive DataAccess where
  | none
  | load (addr : Word) (n : Width)
  | store (addr : Word) (n : Width)
deriving DecidableEq, Repr

/-- The one data access an instruction makes, its address and its width (R58). -/
def dataAccess (i : Instr) (s : State) : DataAccess :=
  match i with
  | .ldAtMptr _ _ => .load s.mptr .two
  | .stAtMptr _ _ => .store s.mptr .two
  | .ldbAtMptr _ _ => .load s.mptr .one
  | .stbAtMptr _ _ => .store s.mptr .one
  | .pop _ => .load s.sp .two
  | .push _ => .store (s.sp - 2#16) .two
  | .ldr _ _ | .ldru _ _ | .lda _ | .ldmptr _ | .ldmptru _ | .ldau _ => .none
  | .mov _ _ | .movFromPc _ | .jmp _ | .sjmp _ | .sjmpf _ | .inc _ | .dec _ => .none
  | .add _ | .sub _ | .adc _ | .sbb _ | .and _ | .or _ | .xor _ => .none
  | .sla _ | .sra _ | .sll _ | .srl _ | .slai _ | .srai _ | .slli _ | .srli _ => .none
  | .addi _ | .adci _ | .sbbi _ | .andi _ | .ori _ | .xori _ => .none
  | .cl _ | .cg _ | .ce _ | .cli _ | .cgi _ | .cei _ | .notf _ => .none

/-- The data access passes every check of R56. -/
abbrev State.accessGoesThrough (s : State) (a : DataAccess) : Prop :=
  match a with
  | .none => True
  | .load addr n => s.admits addr n ∧ s.holds addr n
  | .store addr n => s.admits addr n

/-- The byte addresses an access stores to. -/
def DataAccess.storedTo : DataAccess → List Word
  | .none => []
  | .load _ _ => []
  | .store addr n => touched addr n

/-! ### The registers an instruction names -/

/-- A result with its next state changed. -/
def onNext (f : State → State) (r : Result) : Result :=
  match r with
  | .next t => .next (f t)
  | .fault e => .fault e
  | .refused e => .refused e

end Sys2Proof.Machine

namespace Sys2Proof

/-- The general purpose register a 6-bit ID names, if it names one (R32). -/
def RegId.namedGpr (id : RegId) : List (BitVec 5) := if id.toNat < 32 then [id.setWidth 5] else []

/-- The general purpose registers the fields of an instruction name (R22). -/
def Instr.namedGprs : Instr → List (BitVec 5)
  | .ldr rx _ | .ldru rx _ | .ldAtMptr rx _ | .stAtMptr rx _ | .ldbAtMptr rx _ | .stbAtMptr rx _ => [rx.setWidth 5]
  | .mov d r => RegId.namedGpr d ++ RegId.namedGpr r
  | .movFromPc r | .jmp r | .pop r | .push r | .inc r | .dec r => RegId.namedGpr r
  | .add r | .sub r | .adc r | .sbb r | .and r | .or r | .xor r => RegId.namedGpr r
  | .sla r | .sra r | .sll r | .srl r | .cl r | .cg r | .ce r => RegId.namedGpr r
  | .lda _ | .ldmptr _ | .ldmptru _ | .ldau _ | .sjmp _ | .sjmpf _ | .notf _ => []
  | .slai _ | .srai _ | .slli _ | .srli _ => []
  | .addi _ | .adci _ | .sbbi _ | .andi _ | .ori _ | .xori _ | .cli _ | .cgi _ | .cei _ => []

end Sys2Proof
end

