-- ==== Sys2Proof/Certificates/Slice0/Obligations.lean ====
section
/-! DEFINITION. The statements for the provers. A docstring names the rule of spec/ the statement comes from; where it rests on a
choice the spec marks as its own or on one of the model's, it names the decision or the log entry. Every statement holds for every
value of the parameters of R6, unless it names one. -/

open Sys2Proof Sys2Proof.Machine

/-! ### Encoding -/

/-- R82 to R92 (layouts D1, D2): decoding the word of a well-formed instruction gives the instruction, under every value
of the three layouts (log 10). -/
def Obligations.DecodeOfEncodeIsTheInstruction : Prop :=
  ∀ (l : Layouts) (i : Instr), i.wellFormed = true → decode l (encode l i) = .ok i

/-- R82 to R92 (D1, D2; log 10, 14, 17): no bit of a decoded word is dropped, and what is decoded is well-formed. -/
def Obligations.EncodeOfDecodeIsTheWord : Prop :=
  ∀ (l : Layouts) (iw : Word) (i : Instr), decode l iw = .ok i → encode l i = iw ∧ i.wellFormed = true

/-- R91, under the default layouts (D1, D2; log 10): a word decodes exactly when it lies in a row of the opcode table, and then to an
instruction of a row it lies in. -/
def Obligations.DecoderAgreesWithTheOpcodeTable : Prop :=
  ∀ iw : Word,
    (∀ i, decode .standard iw = .ok i → iw &&& i.row.mask = i.row.pattern) ∧
    ((∃ i, decode .standard iw = .ok i) ↔ ∃ j : Instr, iw &&& j.row.mask = j.row.pattern)

/-- R94 (D11): the words that are no instruction are those of its table, under every layout (D2 and log 10 for the fields). -/
def Obligations.UnassignedWordsAreThoseOfTheTable : Prop :=
  ∀ (l : Layouts) (iw : Word) (op1 op2 op2e : Nat),
    op1 = iw.toNat % 16 →
    op2 = (match l.rtypeLayout with | .standard => iw.toNat / 16 % 64 | .swapped => iw.toNat / 1024) →
    op2e = iw.toNat / 16 % 16 →
    ((∃ e, decode l iw = .error e) ↔
      op1 = 14 ∨ op1 = 15 ∨
      (op1 = 12 ∧ (op2 = 0 ∨ op2 = 15 ∨ (17 ≤ op2 ∧ op2 ≤ 34) ∨ (39 ≤ op2 ∧ op2 ≤ 58))) ∨
      (op1 = 13 ∧ (op2e = 0 ∨ (2 ≤ op2e ∧ op2e ≤ 6) ∨ op2e = 15)))

/-- 95_test_vectors.md, decode vectors, under the default layouts (D1, D2; log 10): words of the spec decode to what the spec says. -/
def Obligations.WordsOfTheSpecDecode : Prop :=
  decode .standard 0xFE30#16 = .ok (.ldr 3#4 0xFE#8) ∧
  decode .standard 0xFF18#16 = .ok (.ldmptru 0xFF1#12) ∧
  decode .standard 0xF019#16 = .ok (.mov 1#6 60#6) ∧
  decode .standard 0xFC59#16 = .ok (.movFromPc 5#6) ∧
  decode .standard 0x17F9#16 = .ok (.jmp 5#6) ∧
  decode .standard 0xFFCA#16 = .ok (.sjmp 0xFFC#12) ∧
  decode .standard 0xF8BC#16 = .ok (.cg 62#6) ∧
  decode .standard 0x3E4C#16 = .ok (.srai 15#6) ∧
  decode .standard 0x1FCC#16 = .ok (.pop 7#6) ∧
  decode .standard 0x01ED#16 = .ok (.sbbi 1#8)

/-! ### Reset, the invariant, the host -/

/-- R36, R220 (D13): pc at RESET_PC, default 0, no byte written, WrittenSet empty. That R0 to R31, A, MPTR, SP, flag and carry
hold 0 is the model's choice (log 11). -/
def Obligations.ResetLeavesTheStatedState : Prop :=
  ∀ p : Params,
    (State.resetWith p).pc = p.resetPc ∧ (State.resetWith p).writtenSet = [] ∧
    (∀ a, (State.resetWith p).byteAt a = none) ∧ (State.resetWith p).params = p ∧
    State.reset.pc = 0x0000#16 ∧ (∀ j, State.reset.getR j = 0#16) ∧
    State.reset.acc = 0#16 ∧ State.reset.mptr = 0#16 ∧ State.reset.sp = 0#16 ∧
    State.reset.flag = false ∧ State.reset.carry = false

/-- The machine after reset has the invariant (R50, R62; log 12, 13, 28 for the form of its data). -/
def Obligations.ResetHasTheInvariant : Prop := State.reset.invariant = true

/-- Every step keeps the invariant, from every state that has it (R50, R62; log 12, 13, 28). -/
def Obligations.EveryStepKeepsTheInvariant : Prop :=
  ∀ s t : State, s.invariant = true → step s = .next t → t.invariant = true

/-- R223 step 1 (log 1): the parameters are fixed before the run; no step changes them. -/
def Obligations.NoStepChangesTheParameters : Prop :=
  ∀ s t : State, step s = .next t → t.params = s.params

/-- R62, R58 (D15): an instruction adds to WrittenSet exactly the bytes it stores, under refuse-written, and removes none. -/
def Obligations.WrittenSetGrowsByTheStoredBytes : Prop :=
  ∀ (i : Instr) (s t : State), exec i s = .next t → ∀ a : Nat,
    (a ∈ t.writtenSet ↔
      a ∈ s.writtenSet ∨
        (s.params.fetchCoherence = .refuseWritten ∧ ∃ b ∈ (dataAccess i s).storedTo, b.toNat = a))

/-- R62, R57 (D15): under refuse-written a byte once in WrittenSet is never fetched, however many steps later. -/
def Obligations.AStoredByteIsNeverFetched : Prop :=
  ∀ (n : Nat) (s u : State) (a : Word),
    s.params.fetchCoherence = .refuseWritten → a.toNat ∈ s.writtenSet →
    Host.Core.run Sys2Proof.core n s = .next u → (u.pc = a ∨ u.pc + 1#16 = a) →
    ∃ f, step u = .fault f

/-- R223 steps 1 to 3 (D26; log 16): a launched image is in memory, written, not in WrittenSet, and nothing else is. -/
def Obligations.LaunchLoadsTheImage : Prop :=
  ∀ (p : Params) (image : List (Word × Byte)), (image.map Prod.fst).Nodup →
    (launch p image {}).pc = p.resetPc ∧ (launch p image {}).params = p ∧ (launch p image {}).writtenSet = [] ∧
    (∀ c ∈ image, (launch p image {}).byteAt c.1 = some c.2) ∧
    (∀ a, a ∉ image.map Prod.fst → (launch p image {}).byteAt a = none) ∧
    (launch p image {}).mem.wf = true

/-- R224 (D16): the instructions a run ends in leave the whole state unchanged. -/
def Obligations.SelfJumpsAreFixedPoints : Prop :=
  ∀ s : State,
    (s.params.branchBase = .self → exec (.sjmp 0#12) s = .next s ∧ (s.flag = true → exec (.sjmpf 0#12) s = .next s)) ∧
    (s.params.branchBase = .next → exec (.sjmp 0xFFE#12) s = .next s) ∧
    (∀ r, s.readId .mov r = some s.pc → exec (.jmp r) s = .next s) ∧
    (s.atEnd = true ↔ step s = .next s)

/-- R223 step 3 and R57 (log 16): a table word placed where the step fetches is the instruction the step runs. -/
def Obligations.AWordPlacedAtPcRuns : Prop :=
  ∀ (s : State) (nbits w : Nat) (i : Instr),
    decodeTableWord nbits w = some i → s.params.toLayouts = defaultParams.toLayouts →
    (isOdd s.pc = true → s.params.misaligned = .split) →
    s.pc.toNat < s.params.memSize → (s.pc + 1#16).toNat < s.params.memSize →
    step (s.withFetchWord nbits w) = exec i (s.withFetchWord nbits w)

/-! ### Rules over all instructions -/

/-- R28 (D23): only the six compares and NOTF change the flag bit. -/
def Obligations.OnlyComparesAndNotfChangeFlag : Prop :=
  ∀ (i : Instr) (s t : State), exec i s = .next t → t.flag ≠ s.flag →
    (∃ imm, i = .cli imm ∨ i = .cgi imm ∨ i = .cei imm) ∨ (∃ r, i = .cl r ∨ i = .cg r ∨ i = .ce r) ∨ ∃ x, i = .notf x

/-- R29 (D5): only the seven add and subtract instructions change carry, and only under CARRY_MODEL = separate. -/
def Obligations.OnlyAddAndSubtractChangeCarry : Prop :=
  ∀ (i : Instr) (s t : State), exec i s = .next t → t.carry ≠ s.carry →
    s.params.carryModel = .separate ∧
      ((∃ imm, i = .addi imm ∨ i = .adci imm ∨ i = .sbbi imm) ∨
        ∃ r, i = .add r ∨ i = .adc r ∨ i = .sub r ∨ i = .sbb r)

/-- R22 to R25: a register changes only as the destination of an instruction that can reach it, or as the MPTR or SP an
instruction steps. -/
def Obligations.RegistersChangeOnlyByTheirWriters : Prop :=
  ∀ (i : Instr) (s t : State), exec i s = .next t →
    (∀ j : BitVec 5, t.getR j ≠ s.getR j →
      (∃ rx imm, rx.toNat = j.toNat ∧
        (i = .ldr rx imm ∨ i = .ldru rx imm ∨ i = .ldAtMptr rx imm ∨ i = .ldbAtMptr rx imm)) ∨
      (∃ r : RegId, r.toNat = j.toNat ∧
        ((∃ r2, i = .mov r r2) ∨ i = .movFromPc r ∨ i = .pop r ∨ i = .inc r ∨ i = .dec r))) ∧
    (t.mptr ≠ s.mptr →
      (∃ rx imm, i = .ldAtMptr rx imm ∨ i = .stAtMptr rx imm ∨ i = .ldbAtMptr rx imm ∨ i = .stbAtMptr rx imm) ∨
      (∃ imm, i = .ldmptr imm ∨ i = .ldmptru imm) ∨ (∃ r, i = .mov 61#6 r) ∨ i = .movFromPc 61#6) ∧
    (t.sp ≠ s.sp → (∃ r, i = .pop r ∨ i = .push r ∨ i = .mov 62#6 r) ∨ i = .movFromPc 62#6) ∧
    (t.acc ≠ s.acc →
      (∃ imm, i = .lda imm) ∨ (∃ imm, i = .ldau imm) ∨ (∃ r, i = .mov 60#6 r) ∨ i = .movFromPc 60#6 ∨
      (∃ imm, i = .addi imm ∨ i = .adci imm ∨ i = .sbbi imm ∨ i = .andi imm ∨ i = .ori imm ∨ i = .xori imm) ∨
      (∃ imm, i = .slai imm ∨ i = .srai imm ∨ i = .slli imm ∨ i = .srli imm) ∨
      (∃ r, i = .add r ∨ i = .sub r ∨ i = .adc r ∨ i = .sbb r ∨ i = .and r ∨ i = .or r ∨ i = .xor r) ∨
      (∃ r, i = .sla r ∨ i = .sra r ∨ i = .sll r ∨ i = .srl r))

/-- R22 (that its fourth row also reads A, MPTR and SP is R34's: `RegisterReadById`): an instruction neither reads nor writes a general purpose register
its fields do not name (writing that register before it is writing it after it); it reads or writes each one it may name, but that MOV
of a register to itself changes nothing; and which registers the fields of each class name, every other instruction none. -/
def Obligations.InstructionsReachExactlyTheirGeneralRegisters : Prop :=
  (∀ (i : Instr) (s : State) (j : BitVec 5) (v : Word), j ∉ i.namedGprs →
    exec i (s.setR j v) = onNext (fun t => t.setR j v) (exec i s)) ∧
  (∀ (i : Instr) (j : BitVec 5), j ∈ i.namedGprs → i.regIdsAllowed = true → (∀ r, i ≠ .mov r r) →
    ∃ (s : State) (v : Word), exec i (s.setR j v) ≠ onNext (fun t => t.setR j v) (exec i s)) ∧
  (∀ (rx : BitVec 4) (imm : BitVec 8) (i : Instr),
    i ∈ [.ldr rx imm, .ldru rx imm, .ldAtMptr rx imm, .stAtMptr rx imm, .ldbAtMptr rx imm, .stbAtMptr rx imm] →
    i.namedGprs = [rx.setWidth 5]) ∧
  (∀ j : BitVec 5, (∃ rx : BitVec 4, rx.setWidth 5 = j) ↔ j.toNat < 16) ∧
  (∀ (d r : RegId) (j : BitVec 5),
    (j ∈ (Instr.mov d r).namedGprs ↔ j.toNat = d.toNat ∨ j.toNat = r.toNat) ∧
    (j ∈ (Instr.movFromPc d).namedGprs ↔ j.toNat = d.toNat) ∧ (j ∈ (Instr.jmp r).namedGprs ↔ j.toNat = r.toNat)) ∧
  (∀ (r : RegId) (j : BitVec 5) (i : Instr),
    i ∈ [.pop r, .push r, .inc r, .dec r, .add r, .sub r, .adc r, .sbb r, .and r, .or r, .xor r, .sla r, .sra r, .sll r, .srl r,
      .cl r, .cg r, .ce r] →
    (j ∈ i.namedGprs ↔ j.toNat = r.toNat)) ∧
  (∀ i : Instr, i.namedGprs ≠ [] →
    (∃ rx imm, i ∈ [.ldr rx imm, .ldru rx imm, .ldAtMptr rx imm, .stAtMptr rx imm, .ldbAtMptr rx imm, .stbAtMptr rx imm]) ∨
    (∃ d r, i ∈ [.mov d r, .movFromPc d, .jmp r]) ∨
    ∃ r, i ∈ [.pop r, .push r, .inc r, .dec r, .add r, .sub r, .adc r, .sbb r, .and r, .or r, .xor r, .sla r, .sra r, .sll r, .srl r,
      .cl r, .cg r, .ce r])

/-- R58 (its widths derived there): only the bytes an instruction stores to change, those of its one access; and an instruction with
no data access runs the same whatever memory holds (under CARRY_MODEL = draw, with the same bit drawn: log 13). -/
def Obligations.MemoryIsTouchedByTheOneDataAccess : Prop :=
  ∀ (i : Instr) (s t : State), exec i s = .next t →
    (∀ a : Nat, (∀ b ∈ (dataAccess i s).storedTo, b.toNat ≠ a) → t.mem.read a = s.mem.read a) ∧
    (dataAccess i s = .none → ∀ (m : Memory) (w : List Nat),
      exec i { s with mem := m, writtenSet := w } = .next { t with mem := m, writtenSet := w })

/-- R27, R204 (D4, D12, D14): the only ways pc changes. -/
def Obligations.PcAdvancesByTwoUnlessAJumpIsTaken : Prop :=
  ∀ (i : Instr) (s t : State), exec i s = .next t →
    t.pc = s.pc + 2#16 ∨
    (∃ off base, (i = .sjmp off ∨ (i = .sjmpf off ∧ s.flag = true)) ∧
      base = (match s.params.branchBase with | .self => s.pc | .next => s.pc + 2#16) ∧
      t.pc = base + off.signExtend 16) ∨
    (∃ r, (i = .jmp r ∨ i = .mov 63#6 r) ∧ s.readId .mov r = some t.pc) ∨
    (i = .movFromPc 63#6 ∧ t.pc = s.pc + 4#16)

/-- R57 (D3, D8): an even pc becomes odd only through a jump to an odd register value or by an odd offset. -/
def Obligations.AnEvenPcBecomesOddOnlyByAnOddJump : Prop :=
  ∀ (i : Instr) (s t : State), exec i s = .next t → isOdd s.pc = false → isOdd t.pc = true →
    (∃ off : BitVec 12, (i = .sjmp off ∨ i = .sjmpf off) ∧ off.getLsbD 0 = true) ∨
    (∃ r v, (i = .jmp r ∨ i = .mov 63#6 r) ∧ s.readId .mov r = some v ∧ isOdd v = true)

/-- R95, R33 to R35 (D10): an instruction is refused exactly for a register ID it may not use. -/
def Obligations.ExactlyReservedRegisterIdsAreRefused : Prop :=
  ∀ (i : Instr) (s : State),
    (i.regIdsAllowed = false → ∃ id, exec i s = .refused (.reservedRegisterId id)) ∧
    (∀ r, exec i s = .refused r → i.regIdsAllowed = false ∧ ∃ id, r = .reservedRegisterId id)

/-- R58, R95, R204 (log 11): every instruction with usable register IDs completes, whatever the registers and flags hold, when
its data access, if it makes one, passes the checks of R56; else it faults. -/
def Obligations.EveryInstructionCompletesWhenItsAccessIsAdmitted : Prop :=
  ∀ (i : Instr) (s : State), i.regIdsAllowed = true →
    (s.accessGoesThrough (dataAccess i s) → ∃ t, exec i s = .next t) ∧
    (¬ s.accessGoesThrough (dataAccess i s) → ∃ f, exec i s = .fault f)

/-! ### Registers -/

/-- R20, R21: 32 separate registers, none hardwired: each holds the last value written to it. -/
def Obligations.RegistersHoldTheLastValueWritten : Prop :=
  ∀ (s : State) (i j : BitVec 5) (v : Word),
    (s.setR i v).getR i = v ∧ (i ≠ j → (s.setR i v).getR j = s.getR j) ∧
    s.setR i v = { s with gpr := (s.setR i v).gpr }

/-- R32: the register each 6-bit ID names, read and written through the ID, the reserved IDs naming none, and the ID whose low four
bits an E-type field holds. -/
def Obligations.RegisterIdsNameTheRegisters : Prop :=
  ∀ (s : State) (v : Word),
    (∀ (id : RegId) (j : BitVec 5), id.toNat = j.toNat →
      (∀ cls, s.readId cls id = some (s.getR j)) ∧ ∃ t, s.writeId .mov id v = some t ∧ t.getR j = v) ∧
    (∀ id : RegId, 0b100000 ≤ id.toNat → id.toNat ≤ 0b111011 →
      ∀ cls, s.readId cls id = none ∧ s.writeId cls id v = none) ∧
    (s.readId .mov 0b111100#6 = some s.acc ∧ ∃ t, s.writeId .mov 0b111100#6 v = some t ∧ t.acc = v) ∧
    (s.readId .mov 0b111101#6 = some s.mptr ∧ ∃ t, s.writeId .mov 0b111101#6 v = some t ∧ t.mptr = v) ∧
    (s.readId .mov 0b111110#6 = some s.sp ∧ ∃ t, s.writeId .mov 0b111110#6 v = some t ∧ t.sp = v) ∧
    (∃ t, s.writeId .mov 0b111111#6 v = some t ∧ t.pc = v) ∧
    (∀ (rx : BitVec 4) (imm : BitVec 8) (i : Instr),
      i ∈ [.ldr rx imm, .ldru rx imm, .ldAtMptr rx imm, .stAtMptr rx imm, .ldbAtMptr rx imm, .stbAtMptr rx imm] →
      i.namedGprs = RegId.namedGpr (0b00#2 ++ rx))

/-- R34 (and R131 for the PC's ID): the value of `x[id]` in each class, and that ADD to SRL, CL, CG and CE read their register through the
class ALU. That this class takes IDs 60 to 62 is R34's own inference, that it refuses 63 and every class 32 to 59 its decision D10: choices
of the spec, not of the source (D10, log 18). -/
def Obligations.RegisterReadById : Prop :=
  ∀ (s : State) (cls : RegClass) (id : RegId),
    (id.toNat < 32 → ∃ j : BitVec 5, j.toNat = id.toNat ∧ s.readId cls id = some (s.getR j)) ∧
    (32 ≤ id.toNat → id.toNat < 60 → s.readId cls id = none) ∧
    (id.toNat = 60 → s.readId cls id = if cls = .stack then none else some s.acc) ∧
    (id.toNat = 61 → s.readId cls id = if cls = .stack then none else some s.mptr) ∧
    (id.toNat = 62 → s.readId cls id = if cls = .stack then none else some s.sp) ∧
    (id.toNat = 63 → s.readId cls id = if cls = .mov then some (s.pc + 4#16) else none) ∧
    (∀ op : RegId → Instr,
      op ∈ [.add, .sub, .adc, .sbb, .and, .or, .xor, .sla, .sra, .sll, .srl, .cl, .cg, .ce] →
      (s.readId .alu id = none → exec (op id) s = .refused (.reservedRegisterId id)) ∧
      (∀ (r : RegId) (v : Word), s.readId .alu id = some v → s.readId .alu r = some v →
        (∃ t, exec (op id) s = .next t) ∧ exec (op r) s = exec (op id) s))

/-! ### Memory -/

/-- R54: MemRead of an admitted access gives the written byte, or the two bytes with the one at the higher address on top. -/
def Obligations.MemReadGivesTheBytes : Prop :=
  ∀ (s : State) (a : Word) (lo hi : Byte), s.byteAt a = some lo →
    (s.admits a .one → s.memRead1 a = .ok lo) ∧
    (s.admits a .two → s.byteAt (a + 1#16) = some hi → s.memRead2 a = .ok (hi ++ lo))

/-- R55: MemWrite of an admitted access changes the named bytes and no other state but WrittenSet. -/
def Obligations.MemWriteChangesTheNamedBytes : Prop :=
  ∀ (s : State) (a v : Word),
    (s.admits a .one → ∃ t, s.memWrite1 a (v.extractLsb' 0 8) = .ok t ∧
      t.byteAt a = some (v.extractLsb' 0 8) ∧
      (∀ b : Nat, b ≠ a.toNat → t.mem.read b = s.mem.read b) ∧
      t = { s with mem := t.mem, writtenSet := t.writtenSet } ∧
      (∀ b, b ∈ t.writtenSet ↔ b ∈ s.writtenSet ∨ (s.params.fetchCoherence = .refuseWritten ∧ b = a.toNat))) ∧
    (s.admits a .two → ∃ t, s.memWrite2 a v = .ok t ∧
      t.byteAt a = some (v.extractLsb' 0 8) ∧ t.byteAt (a + 1#16) = some (v.extractLsb' 8 8) ∧
      (∀ b : Nat, b ≠ a.toNat → b ≠ (a + 1#16).toNat → t.mem.read b = s.mem.read b) ∧
      t = { s with mem := t.mem, writtenSet := t.writtenSet } ∧
      (∀ b, b ∈ t.writtenSet ↔
        b ∈ s.writtenSet ∨ (s.params.fetchCoherence = .refuseWritten ∧ (b = a.toNat ∨ b = (a + 1#16).toNat))))

/-- R53 (derived there from R52, general knowledge K5): what an access of one width sees of accesses of the other. -/
def Obligations.MixedWidthAccessesSeeTheBytes : Prop :=
  ∀ (s : State) (a v : Word) (b0 b1 : Byte), s.admits a .two →
    (∃ t, s.memWrite2 a v = .ok t ∧ t.memRead1 a = .ok (v.extractLsb' 0 8) ∧
      t.memRead1 (a + 1#16) = .ok (v.extractLsb' 8 8) ∧ t.memRead2 a = .ok v) ∧
    (∃ t u, s.memWrite1 a b0 = .ok t ∧ t.memWrite1 (a + 1#16) b1 = .ok u ∧ u.memRead2 a = .ok (b1 ++ b0))

/-- R56, R203 (D8, D9, D12, D13): which check stops a 2-byte access, in order: alignment, population of each byte, then for a
read whether each byte is written. -/
def Obligations.AccessChecksInOrder : Prop :=
  ∀ (s : State) (a v : Word),
    (isOdd a = true → s.params.misaligned = .refuse →
      s.memRead2 a = .error (.misalignedAccess a) ∧ s.memWrite2 a v = .error (.misalignedAccess a)) ∧
    ((isOdd a = true → s.params.misaligned = .split) →
      (s.params.memSize ≤ a.toNat →
        s.memRead2 a = .error (.unpopulatedAddress a) ∧ s.memWrite2 a v = .error (.unpopulatedAddress a)) ∧
      (a.toNat < s.params.memSize → s.params.memSize ≤ (a + 1#16).toNat →
        s.memRead2 a = .error (.unpopulatedAddress (a + 1#16)) ∧
        s.memWrite2 a v = .error (.unpopulatedAddress (a + 1#16))) ∧
      (a.toNat < s.params.memSize → (a + 1#16).toNat < s.params.memSize →
        (s.byteAt a = none → s.memRead2 a = .error (.unwrittenRead a)) ∧
        ((s.byteAt a).isSome = true → s.byteAt (a + 1#16) = none →
          s.memRead2 a = .error (.unwrittenRead (a + 1#16)))))

/-- R56, R112, R113, R140, R141 (D8, D9): an instruction whose access a check stops ends in that stop. -/
def Obligations.AStoppedAccessStopsTheInstruction : Prop :=
  ∀ (s : State) (f : Fault) (rx : BitVec 4) (imm : BitVec 8) (r : RegId) (v : Word),
    (s.memRead2 s.mptr = .error f → exec (.ldAtMptr rx imm) s = .fault f) ∧
    (s.memRead1 s.mptr = .error f → exec (.ldbAtMptr rx imm) s = .fault f) ∧
    (s.memWrite2 s.mptr v = .error f → exec (.stAtMptr rx imm) s = .fault f) ∧
    (s.memWrite1 s.mptr (v.extractLsb' 0 8) = .error f → exec (.stbAtMptr rx imm) s = .fault f) ∧
    (r.toNat < 32 → s.memRead2 s.sp = .error f → exec (.pop r) s = .fault f) ∧
    (r.toNat < 32 → s.memWrite2 (s.sp - 2#16) v = .error f → exec (.push r) s = .fault f)

/-- R57 (D3, D8, D15): what Fetch gives, and which check stops it. -/
def Obligations.FetchGivesTheWordOrItsStop : Prop :=
  ∀ (s : State) (lo hi : Byte),
    (isOdd s.pc = true → s.params.misaligned = .refuse → s.fetch = .error (.misalignedFetch s.pc)) ∧
    ((isOdd s.pc = true → s.params.misaligned = .split) →
      (s.params.memSize ≤ s.pc.toNat → s.fetch = .error (.unpopulatedAddress s.pc)) ∧
      (s.pc.toNat < s.params.memSize → s.byteAt s.pc = none → s.fetch = .error (.unwrittenRead s.pc)) ∧
      (s.pc.toNat < s.params.memSize → s.byteAt s.pc = some lo →
        s.params.fetchCoherence = .refuseWritten → s.pc.toNat ∈ s.writtenSet →
        s.fetch = .error (.fetchOfWrittenByte s.pc)) ∧
      (s.pc.toNat < s.params.memSize → s.byteAt s.pc = some lo →
        (s.params.fetchCoherence = .coherent ∨ s.pc.toNat ∉ s.writtenSet) →
        (s.params.memSize ≤ (s.pc + 1#16).toNat → s.fetch = .error (.unpopulatedAddress (s.pc + 1#16))) ∧
        ((s.pc + 1#16).toNat < s.params.memSize → s.byteAt (s.pc + 1#16) = none →
          s.fetch = .error (.unwrittenRead (s.pc + 1#16))) ∧
        ((s.pc + 1#16).toNat < s.params.memSize → s.byteAt (s.pc + 1#16) = some hi →
          s.params.fetchCoherence = .refuseWritten → (s.pc + 1#16).toNat ∈ s.writtenSet →
          s.fetch = .error (.fetchOfWrittenByte (s.pc + 1#16))) ∧
        ((s.pc + 1#16).toNat < s.params.memSize → s.byteAt (s.pc + 1#16) = some hi →
          (s.params.fetchCoherence = .coherent ∨ (s.pc + 1#16).toNat ∉ s.writtenSet) →
          s.fetch = .ok (hi ++ lo))))

/-- R13, R94 (D4, D11, D20): a step runs the instruction decoded from the fetched word, and nothing is added around it; a fetch that
stops and a word that is no instruction stop the step. -/
def Obligations.AStepRunsTheDecodedInstruction : Prop :=
  ∀ (s : State) (iw : Word) (i : Instr) (e : DecodeError) (f : Fault),
    (s.fetch = .ok iw → decode s.params.toLayouts iw = .ok i → step s = exec i s) ∧
    (s.fetch = .ok iw → decode s.params.toLayouts iw = .error e → step s = .refused (.reservedEncoding iw)) ∧
    (s.fetch = .error f → step s = .fault f)

/-! ### Loads and stores -/

/-- R110, its effect and its encoding: the word rests on D1 (log 10), the advance of pc on D4 (log 19). The word under the other
ETYPE_LAYOUT is the model's (log 10). -/
def Obligations.LdrLoadsTheSignExtendedByte : Prop :=
  ∀ (l : Layouts) (rx : BitVec 4) (imm : BitVec 8) (s : State),
    (l.etypeLayout = .standard → encode l (.ldr rx imm) = imm ++ rx ++ 0b0000#4) ∧
    (l.etypeLayout = .swapped → encode l (.ldr rx imm) = rx ++ imm ++ 0b0000#4) ∧
    exec (.ldr rx imm) s = .next { s.setR (rx.setWidth 5) (imm.signExtend 16) with pc := s.pc + 2#16 }

/-- R111 (D17 for the bits that are kept): LDRU. -/
def Obligations.LdruWritesTheUpperByte : Prop :=
  ∀ (rx : BitVec 4) (imm : BitVec 8) (s : State),
    exec (.ldru rx imm) s = .next
      { s.setR (rx.setWidth 5) (imm ++ (s.getR (rx.setWidth 5)).extractLsb' 0 8) with pc := s.pc + 2#16 }

/-- R112 (D4): LD@MPTR. -/
def Obligations.LdAtMptrLoadsTwoBytes : Prop :=
  ∀ (rx : BitVec 4) (imm : BitVec 8) (s : State) (lo hi : Byte),
    s.admits s.mptr .two → s.byteAt s.mptr = some lo → s.byteAt (s.mptr + 1#16) = some hi →
    exec (.ldAtMptr rx imm) s = .next
      { s.setR (rx.setWidth 5) (hi ++ lo) with mptr := s.mptr + imm.signExtend 16, pc := s.pc + 2#16 }

/-- R113 (D4): ST@MPTR stores at MPTR as it is before the offset is added. -/
def Obligations.StAtMptrStoresTwoBytes : Prop :=
  ∀ (rx : BitVec 4) (imm : BitVec 8) (s : State), s.admits s.mptr .two →
    ∃ t, exec (.stAtMptr rx imm) s = .next t ∧
      t.byteAt s.mptr = some ((s.getR (rx.setWidth 5)).extractLsb' 0 8) ∧
      t.byteAt (s.mptr + 1#16) = some ((s.getR (rx.setWidth 5)).extractLsb' 8 8) ∧
      (∀ a : Nat, a ≠ s.mptr.toNat → a ≠ (s.mptr + 1#16).toNat → t.mem.read a = s.mem.read a) ∧
      t = { s with mem := t.mem, writtenSet := t.writtenSet, mptr := s.mptr + imm.signExtend 16, pc := s.pc + 2#16 }

/-- R114 (D17 for the bits that are kept, D4): LDB@MPTR. -/
def Obligations.LdbAtMptrLoadsTheLowByte : Prop :=
  ∀ (rx : BitVec 4) (imm : BitVec 8) (s : State) (b : Byte),
    s.admits s.mptr .one → s.byteAt s.mptr = some b →
    exec (.ldbAtMptr rx imm) s = .next
      { s.setR (rx.setWidth 5) ((s.getR (rx.setWidth 5)).extractLsb' 8 8 ++ b) with
        mptr := s.mptr + imm.signExtend 16, pc := s.pc + 2#16 }

/-- R115 (log 11 for an unwritten register): STB@MPTR stores one byte. -/
def Obligations.StbAtMptrStoresTheLowByte : Prop :=
  ∀ (rx : BitVec 4) (imm : BitVec 8) (s : State), s.admits s.mptr .one →
    ∃ t, exec (.stbAtMptr rx imm) s = .next t ∧
      t.byteAt s.mptr = some ((s.getR (rx.setWidth 5)).extractLsb' 0 8) ∧
      (∀ a : Nat, a ≠ s.mptr.toNat → t.mem.read a = s.mem.read a) ∧
      t = { s with mem := t.mem, writtenSet := t.writtenSet, mptr := s.mptr + imm.signExtend 16, pc := s.pc + 2#16 }

/-- R116, R117, their effects and encodings: the words rest on D1 (log 10), the advance of pc on D4 (log 19). -/
def Obligations.LdaAndLdmptrLoadTheImmediate : Prop :=
  ∀ (l : Layouts) (imm : BitVec 12) (s : State),
    encode l (.lda imm) = imm ++ 0b0110#4 ∧
    exec (.lda imm) s = .next { s with acc := imm.signExtend 16, pc := s.pc + 2#16 } ∧
    encode l (.ldmptr imm) = imm ++ 0b0111#4 ∧
    exec (.ldmptr imm) s = .next { s with mptr := imm.setWidth 16, pc := s.pc + 2#16 }

/-- R118, R119, R88 (D17 for the bits that are kept, D18 for the ignored ones): LDMPTRU and LDAU. -/
def Obligations.LdmptruAndLdauWriteTheTopNibble : Prop :=
  ∀ (imm12 : BitVec 12) (imm6 : BitVec 6) (s : State),
    exec (.ldmptru imm12) s = .next
      { s with mptr := imm12.extractLsb' 0 4 ++ s.mptr.extractLsb' 0 12, pc := s.pc + 2#16 } ∧
    exec (.ldau imm6) s = .next
      { s with acc := imm6.extractLsb' 0 4 ++ s.acc.extractLsb' 0 12, pc := s.pc + 2#16 }

/-! ### Moves and jumps -/

/-- R130, R35 (D10): MOV copies a readable source to each kind of destination; an ID of 32 to 59 is refused. -/
def Obligations.MovCopiesTheSource : Prop :=
  ∀ (d r : RegId) (s : State) (v : Word), s.readId .mov r = some v →
    (d.toNat < 32 → exec (.mov d r) s = .next { s.setR (d.setWidth 5) v with pc := s.pc + 2#16 }) ∧
    (32 ≤ d.toNat → d.toNat < 60 → exec (.mov d r) s = .refused (.reservedRegisterId d)) ∧
    exec (.mov 60#6 r) s = .next { s with acc := v, pc := s.pc + 2#16 } ∧
    exec (.mov 61#6 r) s = .next { s with mptr := v, pc := s.pc + 2#16 } ∧
    exec (.mov 62#6 r) s = .next { s with sp := v, pc := s.pc + 2#16 }

/-- R131, R135 (D4, D14, D22; log 14): MOV Rx, PC copies the address of the MOV plus 4; into the PC it skips an instruction. -/
def Obligations.MovFromPcCopiesPcPlusFour : Prop :=
  ∀ (d : RegId) (s : State),
    (d.toNat < 32 →
      exec (.movFromPc d) s = .next { s.setR (d.setWidth 5) (s.pc + 4#16) with pc := s.pc + 2#16 }) ∧
    (32 ≤ d.toNat → d.toNat < 60 → exec (.movFromPc d) s = .refused (.reservedRegisterId d)) ∧
    exec (.movFromPc 60#6) s = .next { s with acc := s.pc + 4#16, pc := s.pc + 2#16 } ∧
    exec (.movFromPc 61#6) s = .next { s with mptr := s.pc + 4#16, pc := s.pc + 2#16 } ∧
    exec (.movFromPc 62#6) s = .next { s with sp := s.pc + 4#16, pc := s.pc + 2#16 } ∧
    exec (.movFromPc 63#6) s = .next { s with pc := s.pc + 4#16 }

/-- R132, R133, R134 (D14, D28): the three jumps. -/
def Obligations.JumpsSetPc : Prop :=
  ∀ (r : RegId) (off : BitVec 12) (s : State) (v : Word),
    (s.readId .mov r = some v → exec (.jmp r) s = .next { s with pc := v }) ∧
    (s.params.branchBase = .self →
      exec (.sjmp off) s = .next { s with pc := s.pc + off.signExtend 16 } ∧
      (s.flag = true → exec (.sjmpf off) s = .next { s with pc := s.pc + off.signExtend 16 })) ∧
    (s.params.branchBase = .next →
      exec (.sjmp off) s = .next { s with pc := s.pc + 2#16 + off.signExtend 16 } ∧
      (s.flag = true → exec (.sjmpf off) s = .next { s with pc := s.pc + 2#16 + off.signExtend 16 })) ∧
    (s.flag = false → exec (.sjmpf off) s = .next { s with pc := s.pc + 2#16 })

/-! ### Stack, increment, decrement -/

/-- R140 (D4): POP. -/
def Obligations.PopLoadsFromTheTop : Prop :=
  ∀ (r : RegId) (s : State) (lo hi : Byte), r.toNat < 32 →
    s.admits s.sp .two → s.byteAt s.sp = some lo → s.byteAt (s.sp + 1#16) = some hi →
    exec (.pop r) s = .next { s.setR (r.setWidth 5) (hi ++ lo) with sp := s.sp + 2#16, pc := s.pc + 2#16 }

/-- R141 (D4): PUSH stores at the decremented SP. -/
def Obligations.PushStoresBelowTheTop : Prop :=
  ∀ (r : RegId) (s : State) (a : Word), r.toNat < 32 → a = s.sp - 2#16 → s.admits a .two →
    ∃ t, exec (.push r) s = .next t ∧
      t.byteAt a = some ((s.getR (r.setWidth 5)).extractLsb' 0 8) ∧
      t.byteAt (a + 1#16) = some ((s.getR (r.setWidth 5)).extractLsb' 8 8) ∧
      (∀ b : Nat, b ≠ a.toNat → b ≠ (a + 1#16).toNat → t.mem.read b = s.mem.read b) ∧
      t = { s with mem := t.mem, writtenSet := t.writtenSet, sp := a, pc := s.pc + 2#16 }

/-- R141: PUSH then POP of the same register restores both the register and SP. -/
def Obligations.PushThenPopRestores : Prop :=
  ∀ (r : RegId) (s : State), r.toNat < 32 → s.admits (s.sp - 2#16) .two →
    ∃ t u, exec (.push r) s = .next t ∧ exec (.pop r) t = .next u ∧
      u = { s with mem := t.mem, writtenSet := t.writtenSet, pc := s.pc + 4#16 }

/-- R142, R143 (D4, D10): INC and DEC, and the IDs they refuse. -/
def Obligations.IncAndDecStepTheRegister : Prop :=
  ∀ (r : RegId) (s : State),
    (r.toNat < 32 →
      (exec (.inc r) s = .next { s.setR (r.setWidth 5) (s.getR (r.setWidth 5) + 1#16) with pc := s.pc + 2#16 } ∧
       exec (.dec r) s = .next { s.setR (r.setWidth 5) (s.getR (r.setWidth 5) - 1#16) with pc := s.pc + 2#16 })) ∧
    (32 ≤ r.toNat → exec (.inc r) s = .refused (.reservedRegisterId r) ∧
      exec (.dec r) s = .refused (.reservedRegisterId r) ∧ exec (.pop r) s = .refused (.reservedRegisterId r) ∧
      exec (.push r) s = .refused (.reservedRegisterId r))

/-! ### Arithmetic, logic, shifts -/

/-- R160 (D4, D5): AddC is the exact sum modulo 65536 with its carry out, right for both readings of the operands. -/
def Obligations.AddCIsTheExactSum : Prop :=
  ∀ (a b : Word) (c : Bool),
    (addC a b c).1.toNat = (a.toNat + b.toNat + c.toNat) % 65536 ∧
    ((addC a b c).2 = true ↔ 65536 ≤ a.toNat + b.toNat + c.toNat) ∧
    (addC a b c).1.toInt = (a.toInt + b.toInt + c.toNat).bmod 65536

/-- R161 (D4, D5): SubB is the exact difference modulo 65536 with its borrow; `b + bin` is not truncated. -/
def Obligations.SubBIsTheExactDifference : Prop :=
  ∀ (a b : Word) (c : Bool),
    ((subB a b c).1.toNat : Int) = ((a.toNat : Int) - b.toNat - c.toNat) % 65536 ∧
    ((subB a b c).2 = true ↔ a.toNat < b.toNat + c.toNat) ∧
    (subB a b c).1.toInt = (a.toInt - b.toInt - c.toNat).bmod 65536

/-- R162 (D7, D24; general knowledge K1): the three shift functions as arithmetic, under each SHIFT_MODEL. -/
def Obligations.ShiftsAreMultiplicationAndFloor : Prop :=
  ∀ (m : ShiftModel) (a : Word) (n k : Nat), k = (match m with | .full => n | .mod16 => n % 16) →
    (shl m a n).toNat = a.toNat * 2 ^ k % 65536 ∧
    (shrL m a n).toNat = a.toNat / 2 ^ k ∧
    (shrA m a n).toInt = a.toInt / 2 ^ k ∧
    (16 ≤ k → shl m a n = 0#16 ∧ shrL m a n = 0#16) ∧
    (15 ≤ k → shrA m a n = if a.getLsbD 15 then 0xFFFF#16 else 0x0000#16)

/-- R29 (D5): CarryIn and SetCarry under each CARRY_MODEL; the bit of draw is free (log 13). -/
def Obligations.CarryPrimitives : Prop :=
  ∀ (s : State) (b : Bool),
    (s.params.carryModel = .separate → s.carryIn = (s.carry, s) ∧ s.setCarry b = { s with carry := b }) ∧
    (s.params.carryModel = .flag → s.carryIn = (s.flag, s) ∧ s.setCarry b = s) ∧
    (s.params.carryModel = .draw →
      (∃ c, s.carryIn = (c, { s with draws := s.draws + 1 })) ∧ s.setCarry b = s)

/-- R150, R151, R152 (R160, R161 and R29 for the laws they use; log 11): the immediate additions and subtraction. -/
def Obligations.ImmediateAdditionsWriteAAndCarry : Prop :=
  ∀ (imm : BitVec 8) (s : State) (r r' r'' : Word × Bool),
    r = addC s.acc (imm.signExtend 16) false → r' = addC s.acc (imm.signExtend 16) s.carryIn.1 →
    r'' = subB s.acc (imm.signExtend 16) s.carryIn.1 →
    exec (.addi imm) s = .next { s with
      acc := r.1, carry := if s.params.carryModel = .separate then r.2 else s.carry, pc := s.pc + 2#16 } ∧
    exec (.adci imm) s = .next { s with
      acc := r'.1, carry := if s.params.carryModel = .separate then r'.2 else s.carry
      draws := if s.params.carryModel = .draw then s.draws + 1 else s.draws, pc := s.pc + 2#16 } ∧
    exec (.sbbi imm) s = .next { s with
      acc := r''.1, carry := if s.params.carryModel = .separate then r''.2 else s.carry
      draws := if s.params.carryModel = .draw then s.draws + 1 else s.draws, pc := s.pc + 2#16 }

/-- R170 to R173 (R160, R161 and R29 for the laws they use; log 11): the register additions and subtractions. -/
def Obligations.RegisterAdditionsWriteAAndCarry : Prop :=
  ∀ (reg : RegId) (s : State) (b : Word), s.readId .alu reg = some b →
    (∀ r, r = addC s.acc b false → exec (.add reg) s = .next { s with
      acc := r.1, carry := if s.params.carryModel = .separate then r.2 else s.carry, pc := s.pc + 2#16 }) ∧
    (∀ r, r = subB s.acc b false → exec (.sub reg) s = .next { s with
      acc := r.1, carry := if s.params.carryModel = .separate then r.2 else s.carry, pc := s.pc + 2#16 }) ∧
    (∀ r, r = addC s.acc b s.carryIn.1 → exec (.adc reg) s = .next { s with
      acc := r.1, carry := if s.params.carryModel = .separate then r.2 else s.carry
      draws := if s.params.carryModel = .draw then s.draws + 1 else s.draws, pc := s.pc + 2#16 }) ∧
    (∀ r, r = subB s.acc b s.carryIn.1 → exec (.sbb reg) s = .next { s with
      acc := r.1, carry := if s.params.carryModel = .separate then r.2 else s.carry
      draws := if s.params.carryModel = .draw then s.draws + 1 else s.draws, pc := s.pc + 2#16 })

/-- R163: AND, OR, XOR and their immediate forms work on every bit position, the immediate's bits 15:8 all equal to imm8[7]. -/
def Obligations.LogicWorksOnEveryBit : Prop :=
  (∀ (imm : BitVec 8) (s : State),
    (∃ v : Word, exec (.andi imm) s = .next { s with acc := v, pc := s.pc + 2#16 } ∧
      ∀ k < 16, v.getLsbD k = (s.acc.getLsbD k && imm.getLsbD (min k 7))) ∧
    (∃ v : Word, exec (.ori imm) s = .next { s with acc := v, pc := s.pc + 2#16 } ∧
      ∀ k < 16, v.getLsbD k = (s.acc.getLsbD k || imm.getLsbD (min k 7))) ∧
    (∃ v : Word, exec (.xori imm) s = .next { s with acc := v, pc := s.pc + 2#16 } ∧
      ∀ k < 16, v.getLsbD k = xor (s.acc.getLsbD k) (imm.getLsbD (min k 7))) ∧
    exec (.xori 0xFF#8) s = .next { s with acc := ~~~ s.acc, pc := s.pc + 2#16 }) ∧
  (∀ (reg : RegId) (s : State) (b : Word), s.readId .alu reg = some b →
    (∃ v : Word, exec (.and reg) s = .next { s with acc := v, pc := s.pc + 2#16 } ∧
      ∀ k < 16, v.getLsbD k = (s.acc.getLsbD k && b.getLsbD k)) ∧
    (∃ v : Word, exec (.or reg) s = .next { s with acc := v, pc := s.pc + 2#16 } ∧
      ∀ k < 16, v.getLsbD k = (s.acc.getLsbD k || b.getLsbD k)) ∧
    (∃ v : Word, exec (.xor reg) s = .next { s with acc := v, pc := s.pc + 2#16 } ∧
      ∀ k < 16, v.getLsbD k = xor (s.acc.getLsbD k) (b.getLsbD k)))

/-- R156 to R159 and R177 to R180 (R162 for the shift functions; D4, D7, D24; log 11): the immediate and the register shifts; the
amount of a register shift is the whole register, unsigned. -/
def Obligations.ShiftInstructionsShiftA : Prop :=
  ∀ (s : State) (m : ShiftModel), m = s.params.shiftModel →
    (∀ imm : BitVec 6,
      exec (.slai imm) s = .next { s with acc := shl m s.acc imm.toNat, pc := s.pc + 2#16 } ∧
      exec (.srai imm) s = .next { s with acc := shrA m s.acc imm.toNat, pc := s.pc + 2#16 } ∧
      exec (.slli imm) s = .next { s with acc := shl m s.acc imm.toNat, pc := s.pc + 2#16 } ∧
      exec (.srli imm) s = .next { s with acc := shrL m s.acc imm.toNat, pc := s.pc + 2#16 }) ∧
    (∀ (reg : RegId) (b : Word), s.readId .alu reg = some b →
      exec (.sla reg) s = .next { s with acc := shl m s.acc b.toNat, pc := s.pc + 2#16 } ∧
      exec (.sra reg) s = .next { s with acc := shrA m s.acc b.toNat, pc := s.pc + 2#16 } ∧
      exec (.sll reg) s = .next { s with acc := shl m s.acc b.toNat, pc := s.pc + 2#16 } ∧
      exec (.srl reg) s = .next { s with acc := shrL m s.acc b.toNat, pc := s.pc + 2#16 })

/-! ### Compares and flag -/

/-- R197 (D6): Less, Greater and Equal: exactly one holds; the two settings agree when the sign bits are equal and give
opposite answers when they differ. -/
def Obligations.OrderRelationOfTheCompares : Prop :=
  ∀ (m : CompareModel) (a b : Word),
    (less .signed a b = true ↔ a.toInt < b.toInt) ∧ (less .unsigned a b = true ↔ a.toNat < b.toNat) ∧
    greater m a b = less m b a ∧
    ((less m a b = true ∧ a ≠ b ∧ greater m a b = false) ∨ (less m a b = false ∧ a = b ∧ greater m a b = false) ∨
      (less m a b = false ∧ a ≠ b ∧ greater m a b = true)) ∧
    (a.getLsbD 15 = b.getLsbD 15 → less .signed a b = less .unsigned a b) ∧
    (a.getLsbD 15 ≠ b.getLsbD 15 →
      less .signed a b = !less .unsigned a b ∧ greater .signed a b = !greater .unsigned a b)

/-- R190, R191, R192 (R197 for the order; log 11): the immediate compares write flag alone. -/
def Obligations.ImmediateComparesWriteFlag : Prop :=
  ∀ (imm : BitVec 8) (s : State) (m : CompareModel), m = s.params.compareModel →
    exec (.cli imm) s = .next { s with flag := less m s.acc (imm.signExtend 16), pc := s.pc + 2#16 } ∧
    exec (.cgi imm) s = .next { s with flag := greater m s.acc (imm.signExtend 16), pc := s.pc + 2#16 } ∧
    exec (.cei imm) s = .next { s with flag := decide (s.acc = imm.signExtend 16), pc := s.pc + 2#16 }

/-- R193, R194, R195 (R197 for the order; log 11): the register compares write flag alone. -/
def Obligations.RegisterComparesWriteFlag : Prop :=
  ∀ (reg : RegId) (s : State) (b : Word) (m : CompareModel), s.readId .alu reg = some b → m = s.params.compareModel →
    exec (.cl reg) s = .next { s with flag := less m s.acc b, pc := s.pc + 2#16 } ∧
    exec (.cg reg) s = .next { s with flag := greater m s.acc b, pc := s.pc + 2#16 } ∧
    exec (.ce reg) s = .next { s with flag := decide (s.acc = b), pc := s.pc + 2#16 }

/-- R196 (D18; log 11; D4, log 19 for the advance of pc): NOTF inverts flag whatever its third field holds, and two of them restore
it. Where its word holds opcode2 and the third field is RTYPE_LAYOUT's: the order of the default is D2 (log 10), the other R85's. -/
def Obligations.NotfInvertsFlag : Prop :=
  ∀ (l : Layouts) (x y : BitVec 6) (s : State),
    decode l (match l.rtypeLayout with
      | .standard => x ++ 0b010000#6 ++ 0b1100#4
      | .swapped => 0b010000#6 ++ x ++ 0b1100#4) = .ok (.notf x) ∧
    exec (.notf x) s = .next { s with flag := !s.flag, pc := s.pc + 2#16 } ∧
    ∃ t u, exec (.notf x) s = .next t ∧ exec (.notf y) t = .next u ∧ u = { s with pc := s.pc + 4#16 }
end

