-- ==== Sys2Proof/Laws/Memory.lean ====
section
/-! SUPPORT. The laws of memory and of WrittenSet: read after write, membership after an addition, and that every operation keeps
the canonical form. -/

namespace Sys2Proof.Machine

/-- What a byte reads as after one byte is written. -/
theorem read_write (m : Memory) (a b : Nat) (v : Byte) :
    (m.write a v).read b = if b = a then some v else m.read b := by
  induction m with
  | nil => simp [Memory.write, Memory.read]
  | cons c rest ih =>
    obtain ⟨k, w⟩ := c
    by_cases h1 : a < k
    · simp only [Memory.write, h1, if_true, Memory.read]
    · by_cases h2 : a = k
      · subst h2; simp only [Memory.write, h1, if_false, if_true, Memory.read]; split <;> rfl
      · simp only [Memory.write, h1, h2, if_false, Memory.read, ih]
        split
        · simp_all; omega
        · rfl

/-- The canonical form from a lower start is implied by the form from a higher one. -/
theorem wfFrom_mono {m : Memory} {n k : Nat} (h : k ≤ n) (hm : Memory.wfFrom n m = true) : Memory.wfFrom k m = true := by
  cases m with
  | nil => rfl
  | cons c rest =>
    simp only [Memory.wfFrom, Bool.and_eq_true, decide_eq_true_eq] at hm ⊢
    exact ⟨⟨by omega, hm.1.2⟩, hm.2⟩

/-- Writing a 16-bit address keeps the canonical form from any start not above it. -/
theorem wfFrom_write {m : Memory} {n a : Nat} {v : Byte} (hn : n ≤ a) (ha : a < 65536)
    (hm : Memory.wfFrom n m = true) : Memory.wfFrom n (m.write a v) = true := by
  induction m generalizing n with
  | nil => simp [Memory.write, Memory.wfFrom, hn, ha]
  | cons c rest ih =>
    obtain ⟨k, w⟩ := c
    simp only [Memory.wfFrom, Bool.and_eq_true, decide_eq_true_eq] at hm
    by_cases h1 : a < k
    · simp only [Memory.write, h1, if_true, Memory.wfFrom, Bool.and_eq_true, decide_eq_true_eq]
      exact ⟨⟨hn, ha⟩, ⟨by omega, hm.1.2⟩, hm.2⟩
    · by_cases h2 : a = k
      · subst h2
        simp only [Memory.write, h1, if_false, if_true, Memory.wfFrom, Bool.and_eq_true, decide_eq_true_eq]
        exact hm
      · simp only [Memory.write, h1, h2, if_false, Memory.wfFrom, Bool.and_eq_true, decide_eq_true_eq]
        exact ⟨hm.1, ih (by omega) hm.2⟩

/-- Writing a 16-bit address keeps the canonical form of memory. -/
theorem wf_write {m : Memory} {a : Nat} {v : Byte} (ha : a < 65536) (hm : m.wf = true) : (m.write a v).wf = true :=
  wfFrom_write (Nat.zero_le a) ha hm

/-- Membership in WrittenSet after an addition. -/
theorem mem_addAddress {l : List Nat} {a b : Nat} : b ∈ addAddress l a ↔ b = a ∨ b ∈ l := by
  induction l with
  | nil => simp [addAddress]
  | cons k rest ih =>
    by_cases h1 : a < k
    · simp [addAddress, h1]
    · by_cases h2 : a = k
      · subst h2; simp [addAddress]
      · simp only [addAddress, h1, h2, if_false, List.mem_cons, ih]; tauto

/-- Adding a 16-bit address keeps the canonical form of WrittenSet from any start not above it. -/
theorem addressesWfFrom_add {l : List Nat} {n a : Nat} (hn : n ≤ a) (ha : a < 65536)
    (hl : addressesWfFrom n l = true) : addressesWfFrom n (addAddress l a) = true := by
  induction l generalizing n with
  | nil => simp [addAddress, addressesWfFrom, hn, ha]
  | cons k rest ih =>
    simp only [addressesWfFrom, Bool.and_eq_true, decide_eq_true_eq] at hl
    by_cases h1 : a < k
    · simp only [addAddress, h1, if_true, addressesWfFrom, Bool.and_eq_true, decide_eq_true_eq]
      exact ⟨⟨hn, ha⟩, ⟨by omega, hl.1.2⟩, hl.2⟩
    · by_cases h2 : a = k
      · subst h2
        simp only [addAddress, h1, if_false, if_true, addressesWfFrom, Bool.and_eq_true, decide_eq_true_eq]
        exact hl
      · simp only [addAddress, h1, h2, if_false, addressesWfFrom, Bool.and_eq_true, decide_eq_true_eq]
        exact ⟨hl.1, ih (by omega) hl.2⟩

/-- Adding a 16-bit address keeps the canonical form of WrittenSet. -/
theorem addressesWf_add {l : List Nat} {a : Nat} (ha : a < 65536) (hl : addressesWf l = true) :
    addressesWf (addAddress l a) = true :=
  addressesWfFrom_add (Nat.zero_le a) ha hl

/-- Removing addresses keeps the canonical form of WrittenSet. -/
theorem addressesWfFrom_filter {l : List Nat} {n : Nat} (p : Nat → Bool) (hl : addressesWfFrom n l = true) :
    addressesWfFrom n (l.filter p) = true := by
  induction l generalizing n with
  | nil => rfl
  | cons k rest ih =>
    simp only [addressesWfFrom, Bool.and_eq_true, decide_eq_true_eq] at hl
    by_cases hp : p k = true
    · simp only [List.filter_cons, hp, if_true, addressesWfFrom, Bool.and_eq_true, decide_eq_true_eq]
      exact ⟨hl.1, ih hl.2⟩
    · simp only [List.filter_cons, hp]
      refine ih ?_
      cases rest with
      | nil => rfl
      | cons j t =>
        simp only [addressesWfFrom, Bool.and_eq_true, decide_eq_true_eq] at hl ⊢
        exact ⟨⟨by omega, hl.2.1.2⟩, hl.2.2⟩

end Sys2Proof.Machine
end

