-- ==== Sys2Proof/Laws/State.lean ====
section
/-! SUPPORT. One lemma per field per update of State, so that no proof unfolds a record update, and the register file's own
read-over-write lemma. -/

namespace Sys2Proof.Machine

section Advance
variable (s : State)
@[simp] theorem advance_gpr : s.advance.gpr = s.gpr := rfl
@[simp] theorem advance_acc : s.advance.acc = s.acc := rfl
@[simp] theorem advance_mptr : s.advance.mptr = s.mptr := rfl
@[simp] theorem advance_sp : s.advance.sp = s.sp := rfl
@[simp] theorem advance_pc : s.advance.pc = s.pc + 2#16 := rfl
@[simp] theorem advance_flag : s.advance.flag = s.flag := rfl
@[simp] theorem advance_carry : s.advance.carry = s.carry := rfl
@[simp] theorem advance_mem : s.advance.mem = s.mem := rfl
@[simp] theorem advance_writtenSet : s.advance.writtenSet = s.writtenSet := rfl
@[simp] theorem advance_draws : s.advance.draws = s.draws := rfl
@[simp] theorem advance_params : s.advance.params = s.params := rfl
end Advance

section SetR
variable (s : State) (i : BitVec 5) (v : Word)
@[simp] theorem setR_acc : (s.setR i v).acc = s.acc := rfl
@[simp] theorem setR_mptr : (s.setR i v).mptr = s.mptr := rfl
@[simp] theorem setR_sp : (s.setR i v).sp = s.sp := rfl
@[simp] theorem setR_pc : (s.setR i v).pc = s.pc := rfl
@[simp] theorem setR_flag : (s.setR i v).flag = s.flag := rfl
@[simp] theorem setR_carry : (s.setR i v).carry = s.carry := rfl
@[simp] theorem setR_mem : (s.setR i v).mem = s.mem := rfl
@[simp] theorem setR_writtenSet : (s.setR i v).writtenSet = s.writtenSet := rfl
@[simp] theorem setR_draws : (s.setR i v).draws = s.draws := rfl
@[simp] theorem setR_params : (s.setR i v).params = s.params := rfl

/-- What a general purpose register reads as after a write of one. -/
theorem getR_setR (j : BitVec 5) : (s.setR i v).getR j = if i = j then v else s.getR j := by
  simp [State.setR, State.getR, Vector.getElem_set, BitVec.toNat_inj]

/-- The general purpose registers depend on the register file alone. -/
theorem getR_congr {s t : State} (h : s.gpr = t.gpr) (j : BitVec 5) : s.getR j = t.getR j := by
  simp only [State.getR, h]
end SetR

section BumpMptr
variable (s : State) (off : BitVec 8)
@[simp] theorem bumpMptr_gpr : (s.bumpMptr off).gpr = s.gpr := rfl
@[simp] theorem bumpMptr_acc : (s.bumpMptr off).acc = s.acc := rfl
@[simp] theorem bumpMptr_mptr : (s.bumpMptr off).mptr = s.mptr + sext16 off := rfl
@[simp] theorem bumpMptr_sp : (s.bumpMptr off).sp = s.sp := rfl
@[simp] theorem bumpMptr_pc : (s.bumpMptr off).pc = s.pc + 2#16 := rfl
@[simp] theorem bumpMptr_flag : (s.bumpMptr off).flag = s.flag := rfl
@[simp] theorem bumpMptr_carry : (s.bumpMptr off).carry = s.carry := rfl
@[simp] theorem bumpMptr_mem : (s.bumpMptr off).mem = s.mem := rfl
@[simp] theorem bumpMptr_writtenSet : (s.bumpMptr off).writtenSet = s.writtenSet := rfl
@[simp] theorem bumpMptr_draws : (s.bumpMptr off).draws = s.draws := rfl
@[simp] theorem bumpMptr_params : (s.bumpMptr off).params = s.params := rfl
end BumpMptr

section NoteWritten
variable (s : State) (a : Word)
/-- `note_written` changes WrittenSet alone. -/
theorem noteWritten_eq : s.noteWritten a = { s with writtenSet := (s.noteWritten a).writtenSet } := by
  unfold State.noteWritten; split <;> rfl
@[simp] theorem noteWritten_gpr : (s.noteWritten a).gpr = s.gpr := by rw [noteWritten_eq]
@[simp] theorem noteWritten_acc : (s.noteWritten a).acc = s.acc := by rw [noteWritten_eq]
@[simp] theorem noteWritten_mptr : (s.noteWritten a).mptr = s.mptr := by rw [noteWritten_eq]
@[simp] theorem noteWritten_sp : (s.noteWritten a).sp = s.sp := by rw [noteWritten_eq]
@[simp] theorem noteWritten_pc : (s.noteWritten a).pc = s.pc := by rw [noteWritten_eq]
@[simp] theorem noteWritten_flag : (s.noteWritten a).flag = s.flag := by rw [noteWritten_eq]
@[simp] theorem noteWritten_carry : (s.noteWritten a).carry = s.carry := by rw [noteWritten_eq]
@[simp] theorem noteWritten_mem : (s.noteWritten a).mem = s.mem := by rw [noteWritten_eq]
@[simp] theorem noteWritten_draws : (s.noteWritten a).draws = s.draws := by rw [noteWritten_eq]
@[simp] theorem noteWritten_params : (s.noteWritten a).params = s.params := by rw [noteWritten_eq]
/-- What `note_written` does to WrittenSet under each FETCH_COHERENCE (R62). -/
theorem noteWritten_writtenSet : (s.noteWritten a).writtenSet =
    match s.params.fetchCoherence with
    | .refuseWritten => addAddress s.writtenSet a.toNat
    | .coherent => s.writtenSet := by
  unfold State.noteWritten; cases s.params.fetchCoherence <;> rfl
end NoteWritten

section StoreByte
variable (s : State) (a : Word) (v : Byte)
@[simp] theorem storeByte_gpr : (s.storeByte a v).gpr = s.gpr := by simp [State.storeByte]
@[simp] theorem storeByte_acc : (s.storeByte a v).acc = s.acc := by simp [State.storeByte]
@[simp] theorem storeByte_mptr : (s.storeByte a v).mptr = s.mptr := by simp [State.storeByte]
@[simp] theorem storeByte_sp : (s.storeByte a v).sp = s.sp := by simp [State.storeByte]
@[simp] theorem storeByte_pc : (s.storeByte a v).pc = s.pc := by simp [State.storeByte]
@[simp] theorem storeByte_flag : (s.storeByte a v).flag = s.flag := by simp [State.storeByte]
@[simp] theorem storeByte_carry : (s.storeByte a v).carry = s.carry := by simp [State.storeByte]
@[simp] theorem storeByte_mem : (s.storeByte a v).mem = s.mem.write a.toNat v := by simp [State.storeByte]
@[simp] theorem storeByte_draws : (s.storeByte a v).draws = s.draws := by simp [State.storeByte]
@[simp] theorem storeByte_params : (s.storeByte a v).params = s.params := by simp [State.storeByte]
theorem storeByte_writtenSet : (s.storeByte a v).writtenSet = (s.noteWritten a).writtenSet := by
  simp [State.storeByte, noteWritten_writtenSet]
end StoreByte

section StoreWord
variable (s : State) (a : Word) (v : Word)
@[simp] theorem storeWord_gpr : (s.storeWord a v).gpr = s.gpr := by simp [State.storeWord]
@[simp] theorem storeWord_acc : (s.storeWord a v).acc = s.acc := by simp [State.storeWord]
@[simp] theorem storeWord_mptr : (s.storeWord a v).mptr = s.mptr := by simp [State.storeWord]
@[simp] theorem storeWord_sp : (s.storeWord a v).sp = s.sp := by simp [State.storeWord]
@[simp] theorem storeWord_pc : (s.storeWord a v).pc = s.pc := by simp [State.storeWord]
@[simp] theorem storeWord_flag : (s.storeWord a v).flag = s.flag := by simp [State.storeWord]
@[simp] theorem storeWord_carry : (s.storeWord a v).carry = s.carry := by simp [State.storeWord]
@[simp] theorem storeWord_mem : (s.storeWord a v).mem =
    Memory.write (Memory.write s.mem a.toNat (lowByte v)) (a + 1#16).toNat (highByte v) := by simp [State.storeWord]
@[simp] theorem storeWord_draws : (s.storeWord a v).draws = s.draws := by simp [State.storeWord]
@[simp] theorem storeWord_params : (s.storeWord a v).params = s.params := by simp [State.storeWord]
end StoreWord

section LoadByte
variable (s : State) (a : Word) (v : Byte)
@[simp] theorem loadByte_gpr : (s.loadByte a v).gpr = s.gpr := rfl
@[simp] theorem loadByte_acc : (s.loadByte a v).acc = s.acc := rfl
@[simp] theorem loadByte_mptr : (s.loadByte a v).mptr = s.mptr := rfl
@[simp] theorem loadByte_sp : (s.loadByte a v).sp = s.sp := rfl
@[simp] theorem loadByte_pc : (s.loadByte a v).pc = s.pc := rfl
@[simp] theorem loadByte_flag : (s.loadByte a v).flag = s.flag := rfl
@[simp] theorem loadByte_carry : (s.loadByte a v).carry = s.carry := rfl
@[simp] theorem loadByte_mem : (s.loadByte a v).mem = s.mem.write a.toNat v := rfl
@[simp] theorem loadByte_writtenSet : (s.loadByte a v).writtenSet = s.writtenSet.filter (· != a.toNat) := rfl
@[simp] theorem loadByte_draws : (s.loadByte a v).draws = s.draws := rfl
@[simp] theorem loadByte_params : (s.loadByte a v).params = s.params := rfl
end LoadByte

section SetCarry
variable (s : State) (b : Bool)
/-- SetCarry changes carry alone (R29). -/
theorem setCarry_eq : s.setCarry b = { s with carry := (s.setCarry b).carry } := by
  unfold State.setCarry; split <;> rfl
@[simp] theorem setCarry_gpr : (s.setCarry b).gpr = s.gpr := by rw [setCarry_eq]
@[simp] theorem setCarry_acc : (s.setCarry b).acc = s.acc := by rw [setCarry_eq]
@[simp] theorem setCarry_mptr : (s.setCarry b).mptr = s.mptr := by rw [setCarry_eq]
@[simp] theorem setCarry_sp : (s.setCarry b).sp = s.sp := by rw [setCarry_eq]
@[simp] theorem setCarry_pc : (s.setCarry b).pc = s.pc := by rw [setCarry_eq]
@[simp] theorem setCarry_flag : (s.setCarry b).flag = s.flag := by rw [setCarry_eq]
@[simp] theorem setCarry_mem : (s.setCarry b).mem = s.mem := by rw [setCarry_eq]
@[simp] theorem setCarry_writtenSet : (s.setCarry b).writtenSet = s.writtenSet := by rw [setCarry_eq]
@[simp] theorem setCarry_draws : (s.setCarry b).draws = s.draws := by rw [setCarry_eq]
@[simp] theorem setCarry_params : (s.setCarry b).params = s.params := by rw [setCarry_eq]
/-- What SetCarry writes under each CARRY_MODEL (R29). -/
theorem setCarry_carry : (s.setCarry b).carry = if s.params.carryModel = .separate then b else s.carry := by
  unfold State.setCarry; split <;> simp_all
end SetCarry

section CarryIn
variable (s : State)
/-- CarryIn() changes the model's counter of draws alone (R29). -/
theorem carryIn_state_eq : s.carryIn.2 = { s with draws := s.carryIn.2.draws } := by
  unfold State.carryIn; split <;> rfl
@[simp] theorem carryIn_gpr : s.carryIn.2.gpr = s.gpr := by rw [carryIn_state_eq]
@[simp] theorem carryIn_acc : s.carryIn.2.acc = s.acc := by rw [carryIn_state_eq]
@[simp] theorem carryIn_mptr : s.carryIn.2.mptr = s.mptr := by rw [carryIn_state_eq]
@[simp] theorem carryIn_sp : s.carryIn.2.sp = s.sp := by rw [carryIn_state_eq]
@[simp] theorem carryIn_pc : s.carryIn.2.pc = s.pc := by rw [carryIn_state_eq]
@[simp] theorem carryIn_flag : s.carryIn.2.flag = s.flag := by rw [carryIn_state_eq]
@[simp] theorem carryIn_carry : s.carryIn.2.carry = s.carry := by rw [carryIn_state_eq]
@[simp] theorem carryIn_mem : s.carryIn.2.mem = s.mem := by rw [carryIn_state_eq]
@[simp] theorem carryIn_writtenSet : s.carryIn.2.writtenSet = s.writtenSet := by rw [carryIn_state_eq]
@[simp] theorem carryIn_params : s.carryIn.2.params = s.params := by rw [carryIn_state_eq]
/-- How CarryIn() moves the counter of draws (R29). -/
theorem carryIn_draws : s.carryIn.2.draws = if s.params.carryModel = .draw then s.draws + 1 else s.draws := by
  unfold State.carryIn; split <;> simp_all
end CarryIn

end Sys2Proof.Machine
end

