-- ==== Sys2Proof/Laws/Ops.lean ====
section
/-! SUPPORT. One lemma per shared operation that says once everything it can do: the provers cite these instead of unfolding. -/

namespace Sys2Proof.Machine

/-- The low byte and the high byte of a joined word. -/
@[simp] theorem lowByte_wordOfBytes (lo hi : Byte) : lowByte (wordOfBytes lo hi) = lo := by
  apply BitVec.eq_of_getLsbD_eq
  intro k hk
  simp only [lowByte, wordOfBytes, BitVec.getLsbD_append, BitVec.getLsbD_extractLsb', Nat.zero_add]
  simp [hk]

@[simp] theorem highByte_wordOfBytes (lo hi : Byte) : highByte (wordOfBytes lo hi) = hi := by
  apply BitVec.eq_of_getLsbD_eq
  intro k hk
  simp only [highByte, wordOfBytes, BitVec.getLsbD_append, BitVec.getLsbD_extractLsb']
  simp [hk]

/-- A word is its two bytes. -/
@[simp] theorem wordOfBytes_lowByte_highByte (v : Word) : wordOfBytes (lowByte v) (highByte v) = v := by
  apply BitVec.eq_of_getLsbD_eq
  intro k hk
  simp only [wordOfBytes, lowByte, highByte, BitVec.getLsbD_append, BitVec.getLsbD_extractLsb']
  by_cases h : k < 8
  · simp [h]
  · simp only [h, if_false]; rw [show 8 + (k - 8) = k by omega]; simp; omega

/-- The addresses of the two bytes of a 16-bit value differ. -/
theorem succ_ne (a : Word) : (a + 1#16).toNat ≠ a.toNat := by
  intro h
  rw [BitVec.toNat_add] at h
  have := a.isLt
  simp only [BitVec.toNat_ofNat] at h
  omega

/-- What a byte reads as after a 1-byte store. -/
theorem byteAt_storeByte (s : State) (a b : Word) (v : Byte) :
    (s.storeByte a v).byteAt b = if b = a then some v else s.byteAt b := by
  simp only [State.byteAt, storeByte_mem, read_write, BitVec.toNat_inj]

/-- What a byte reads as after a 2-byte store, little endian (R52, R55). -/
theorem byteAt_storeWord (s : State) (a b : Word) (v : Word) :
    (s.storeWord a v).byteAt b =
      if b = a then some (lowByte v) else if b = a + 1#16 then some (highByte v) else s.byteAt b := by
  simp only [State.storeWord, byteAt_storeByte]
  by_cases h : b = a
  · subst h
    have : b ≠ b + 1#16 := fun e => succ_ne b (congrArg BitVec.toNat e.symm)
    simp [this]
  · simp [h]

/-- `Check` answers nothing exactly when the access is admitted: aligned or split, and every byte populated (R56). -/
theorem check_none_iff (s : State) (a : Word) (n : Width) :
    s.check a n = none ↔
      ¬ (n = .two ∧ isOdd a = true ∧ s.params.misaligned = .refuse) ∧ ∀ b ∈ touched a n, b.toNat < s.params.memSize := by
  unfold State.check
  by_cases h : n = .two ∧ isOdd a = true ∧ s.params.misaligned = .refuse
  · simp [h]
  · simp [h, State.firstUnpopulated, List.find?_eq_none]

/-- A 1-byte read gives the byte, and only of an admitted, written byte (R54). -/
theorem memRead1_ok_iff (s : State) (a : Word) (v : Byte) :
    s.memRead1 a = .ok v ↔ s.check a .one = none ∧ s.byteAt a = some v := by
  unfold State.memRead1 State.readWritten
  cases s.check a .one <;> cases s.byteAt a <;> simp

/-- A 2-byte read gives the little endian value of two admitted, written bytes (R54). -/
theorem memRead2_ok_iff (s : State) (a : Word) (v : Word) :
    s.memRead2 a = .ok v ↔
      s.check a .two = none ∧ s.byteAt a = some (lowByte v) ∧ s.byteAt (a + 1#16) = some (highByte v) := by
  unfold State.memRead2 State.readWritten
  cases s.check a .two with
  | some f => simp
  | none =>
    cases h1 : s.byteAt a with
    | none => simp
    | some lo =>
      cases h2 : s.byteAt (a + 1#16) with
      | none => simp
      | some hi =>
        simp only [Except.ok.injEq, true_and, Option.some.injEq]
        constructor
        · rintro rfl; simp
        · rintro ⟨rfl, rfl⟩; simp

/-- A 1-byte write is the store, and only when admitted (R55). -/
theorem memWrite1_ok_iff (s t : State) (a : Word) (v : Byte) :
    s.memWrite1 a v = .ok t ↔ s.check a .one = none ∧ t = s.storeByte a v := by
  unfold State.memWrite1
  cases s.check a .one <;> simp [eq_comm]

/-- A 2-byte write is the store, and only when admitted (R55). -/
theorem memWrite2_ok_iff (s t : State) (a : Word) (v : Word) :
    s.memWrite2 a v = .ok t ↔ s.check a .two = none ∧ t = s.storeWord a v := by
  unfold State.memWrite2
  cases s.check a .two <;> simp [eq_comm]

/-- A meaning that continues from a memory primitive answers next only where the primitive gives a value. -/
theorem onMemory_next_iff {α : Type} (x : Except Fault α) (k : α → Result) (t : State) :
    onMemory x k = .next t ↔ ∃ v, x = .ok v ∧ k v = .next t := by
  cases x <;> simp [onMemory]

/-- A meaning that continues from a memory primitive faults where the primitive does, or later. -/
theorem onMemory_fault_iff {α : Type} (x : Except Fault α) (k : α → Result) (f : Fault) :
    onMemory x k = .fault f ↔ x = .error f ∨ ∃ v, x = .ok v ∧ k v = .fault f := by
  cases x <;> simp [onMemory]

/-- A meaning that continues from a memory primitive is refused only by what follows the primitive. -/
theorem onMemory_refused_iff {α : Type} (x : Except Fault α) (k : α → Result) (r : Refusal) :
    onMemory x k = .refused r ↔ ∃ v, x = .ok v ∧ k v = .refused r := by
  cases x <;> simp [onMemory]

/-- A meaning that reads a register operand answers next only where the ID can be read (R34). -/
theorem withOperand_next_iff (s : State) (cls : RegClass) (id : RegId) (k : Word → Result) (t : State) :
    s.withOperand cls id k = .next t ↔ ∃ v, s.readId cls id = some v ∧ k v = .next t := by
  unfold State.withOperand; cases s.readId cls id <;> simp

/-- A meaning that reads a register operand faults only later. -/
theorem withOperand_fault_iff (s : State) (cls : RegClass) (id : RegId) (k : Word → Result) (f : Fault) :
    s.withOperand cls id k = .fault f ↔ ∃ v, s.readId cls id = some v ∧ k v = .fault f := by
  unfold State.withOperand; cases s.readId cls id <;> simp

/-- A register operand is refused for its ID (R33, R34), or the meaning is refused later. -/
theorem withOperand_refused_iff (s : State) (cls : RegClass) (id : RegId) (k : Word → Result) (r : Refusal) :
    s.withOperand cls id k = .refused r ↔
      (s.readId cls id = none ∧ r = .reservedRegisterId id) ∨ ∃ v, s.readId cls id = some v ∧ k v = .refused r := by
  unfold State.withOperand; cases s.readId cls id <;> simp [eq_comm]

/-- The end of an instruction that writes a register by ID. -/
theorem intoRegister_next_iff (s t : State) (cls : RegClass) (id : RegId) (v : Word) :
    s.intoRegister cls id v = .next t ↔ s.writeId cls id v = some t := by
  unfold State.intoRegister; cases s.writeId cls id v <;> simp

/-- A register written by ID is refused for its ID alone (R35). -/
theorem intoRegister_refused_iff (s : State) (cls : RegClass) (id : RegId) (v : Word) (r : Refusal) :
    s.intoRegister cls id v = .refused r ↔ s.writeId cls id v = none ∧ r = .reservedRegisterId id := by
  unfold State.intoRegister; cases s.writeId cls id v <;> simp [eq_comm]

/-- Everything a write by ID can do: one register and the advance of pc, or pc itself (R35). -/
theorem writeId_cases {s t : State} {cls : RegClass} {id : RegId} {v : Word} (h : s.writeId cls id v = some t) :
    (id.toNat < 32 ∧ t = (s.setR (gprOfId id) v).advance) ∨
    (id = 60#6 ∧ cls = .mov ∧ t = { s with acc := v }.advance) ∨
    (id = 61#6 ∧ cls = .mov ∧ t = { s with mptr := v }.advance) ∨
    (id = 62#6 ∧ cls = .mov ∧ t = { s with sp := v }.advance) ∨
    (id = 63#6 ∧ cls = .mov ∧ t = { s with pc := v }) := by
  unfold State.writeId at h
  split at h
  · exact .inl ⟨‹_›, by simpa [eq_comm] using h⟩
  split at h
  · exact .inr (.inl ⟨(‹_ ∧ _› : _ ∧ _).1, (‹_ ∧ _› : _ ∧ _).2, by simpa [eq_comm] using h⟩)
  split at h
  · exact .inr (.inr (.inl ⟨(‹_ ∧ _› : _ ∧ _).1, (‹_ ∧ _› : _ ∧ _).2, by simpa [eq_comm] using h⟩))
  split at h
  · exact .inr (.inr (.inr (.inl ⟨(‹_ ∧ _› : _ ∧ _).1, (‹_ ∧ _› : _ ∧ _).2, by simpa [eq_comm] using h⟩)))
  split at h
  · exact .inr (.inr (.inr (.inr ⟨(‹_ ∧ _› : _ ∧ _).1, (‹_ ∧ _› : _ ∧ _).2, by simpa [eq_comm] using h⟩)))
  · cases h

/-- A step that answers next ran the instruction decoded from the fetched word (R13). -/
theorem step_next_iff (s t : State) :
    step s = .next t ↔ ∃ iw i, s.fetch = .ok iw ∧ decode s.params.toLayouts iw = .ok i ∧ exec i s = .next t := by
  unfold step
  rw [onMemory_next_iff]
  constructor
  · rintro ⟨iw, h, hk⟩
    cases hd : decode s.params.toLayouts iw with
    | error e => rw [hd] at hk; cases hk
    | ok i => rw [hd] at hk; exact ⟨iw, i, h, hd, hk⟩
  · rintro ⟨iw, i, h, hd, hk⟩
    exact ⟨iw, h, by rw [hd]; exact hk⟩

/-- One byte is fetched exactly when it is populated, written, and not stored to under refuse-written (R57). -/
theorem fetchByte_ok_iff (s : State) (a : Word) (v : Byte) :
    s.fetchByte a = .ok v ↔
      a.toNat < s.params.memSize ∧ s.byteAt a = some v ∧
        ¬ (s.params.fetchCoherence = .refuseWritten ∧ a.toNat ∈ s.writtenSet) := by
  unfold State.fetchByte
  by_cases h : s.params.memSize ≤ a.toNat
  · simp [h]
  · cases hb : s.byteAt a with
    | none => simp [h]
    | some w =>
      by_cases hw : s.params.fetchCoherence = .refuseWritten ∧ a.toNat ∈ s.writtenSet
      · simp [h, hw]
      · simp [h, hw]; omega

/-- A word is fetched exactly when pc is even or split, and both its bytes can be fetched (R57). -/
theorem fetch_ok_iff (s : State) (iw : Word) :
    s.fetch = .ok iw ↔
      ¬ (isOdd s.pc = true ∧ s.params.misaligned = .refuse) ∧
        s.fetchByte s.pc = .ok (lowByte iw) ∧ s.fetchByte (s.pc + 1#16) = .ok (highByte iw) := by
  unfold State.fetch
  by_cases h : isOdd s.pc = true ∧ s.params.misaligned = .refuse
  · simp [h]
  · simp only [h, if_false, not_false_eq_true, true_and]
    cases h1 : s.fetchByte s.pc with
    | error f => simp
    | ok lo =>
      cases h2 : s.fetchByte (s.pc + 1#16) with
      | error f => simp
      | ok hi =>
        simp only [Except.ok.injEq]
        constructor
        · rintro rfl; simp
        · rintro ⟨rfl, rfl⟩; simp

/-- A store of one byte keeps the canonical form of memory. -/
theorem storeByte_wf {s : State} {a : Word} {v : Byte} (h : s.mem.wf = true) : (s.storeByte a v).mem.wf = true := by
  simpa using wf_write a.isLt h

/-- A store of two bytes keeps the canonical form of memory. -/
theorem storeWord_wf {s : State} {a : Word} {v : Word} (h : s.mem.wf = true) : (s.storeWord a v).mem.wf = true :=
  storeByte_wf (storeByte_wf h)

/-- Loading a byte from outside keeps the canonical form of memory. -/
theorem loadByte_wf {s : State} {a : Word} {v : Byte} (h : s.mem.wf = true) : (s.loadByte a v).mem.wf = true := by
  simpa using wf_write a.isLt h

/-- Loading a word from outside keeps the canonical form of memory. -/
theorem loadWord_wf {s : State} {a iw : Word} (h : s.mem.wf = true) : (s.loadWord a iw).mem.wf = true :=
  loadByte_wf (loadByte_wf h)

/-- The machine after reset has canonical memory. -/
theorem reset_mem_wf : State.reset.mem.wf = true := rfl

end Sys2Proof.Machine
end

