-- ==== Sys2Proof/Laws/PerInstr.lean ====
section
/-! SUPPORT. Statements made per instruction. `EncodesToRow`: the word of an instruction is an element of its row of the opcode
table (R91, R92), under the default layout. -/

namespace Sys2Proof.Laws

/-- An E-type word ends in its opcode1. -/
theorem eWord_opcode1 (imm : BitVec 8) (f op : BitVec 4) : eWord imm f op &&& 0x000F#16 = op.setWidth 16 := by
  apply BitVec.eq_of_getLsbD_eq
  intro k hk
  simp only [eWord, BitVec.getLsbD_and, BitVec.getLsbD_append, BitVec.getLsbD_setWidth]
  interval_cases k <;> simp

/-- An E-type word ends in its 4-bit field and opcode1. -/
theorem eWord_row (imm : BitVec 8) (f op : BitVec 4) : eWord imm f op &&& 0x00FF#16 = (f ++ op).setWidth 16 := by
  apply BitVec.eq_of_getLsbD_eq
  intro k hk
  simp only [eWord, BitVec.getLsbD_and, BitVec.getLsbD_append, BitVec.getLsbD_setWidth]
  interval_cases k <;> simp

/-- A T-type word ends in its opcode1. -/
theorem tWord_opcode1 (imm : BitVec 12) (op : BitVec 4) : tWord .standard imm op &&& 0x000F#16 = op.setWidth 16 := by
  apply BitVec.eq_of_getLsbD_eq
  intro k hk
  simp only [tWord, BitVec.getLsbD_and, BitVec.getLsbD_append, BitVec.getLsbD_setWidth]
  interval_cases k <;> simp

/-- An R-type word ends in its opcode1. -/
theorem rWord_opcode1 (second first : BitVec 6) (op : BitVec 4) :
    rWord .standard second first op &&& 0x000F#16 = op.setWidth 16 := by
  apply BitVec.eq_of_getLsbD_eq
  intro k hk
  simp only [rWord, BitVec.getLsbD_and, BitVec.getLsbD_append, BitVec.getLsbD_setWidth]
  interval_cases k <;> simp

/-- An R-type word ends in its first 6-bit field and opcode1. -/
theorem rWord_row (second first : BitVec 6) (op : BitVec 4) :
    rWord .standard second first op &&& 0x03FF#16 = (first ++ op).setWidth 16 := by
  apply BitVec.eq_of_getLsbD_eq
  intro k hk
  simp only [rWord, BitVec.getLsbD_and, BitVec.getLsbD_append, BitVec.getLsbD_setWidth]
  interval_cases k <;> simp

/-- The words of MOV Rx, PC begin with the PC's ID and end in opcode1 (R92). -/
theorem movFromPc_word_row (r1 : RegId) : rWord .standard RegId.pcId r1 0b1001#4 &&& 0xFC0F#16 = 0xFC09#16 := by
  apply BitVec.eq_of_getLsbD_eq
  intro k hk
  simp only [rWord, BitVec.getLsbD_and, BitVec.getLsbD_append]
  interval_cases k <;> simp [RegId.pcId]

/-- The word of the instruction is an element of its opcode-table row. -/
def EncodesToRow.Statement (i : Instr) : Prop := encode .standard i &&& i.row.mask = i.row.pattern

end Sys2Proof.Laws

section
open Sys2Proof Sys2Proof.Laws

theorem Sys2Proof.Laws.EncodesToRow.ldr (rx : BitVec 4) (imm8 : BitVec 8) :
    Sys2Proof.Laws.EncodesToRow.Statement (.ldr rx imm8) := eWord_opcode1 _ _ _

theorem Sys2Proof.Laws.EncodesToRow.ldru (rx : BitVec 4) (imm8 : BitVec 8) :
    Sys2Proof.Laws.EncodesToRow.Statement (.ldru rx imm8) := eWord_opcode1 _ _ _

theorem Sys2Proof.Laws.EncodesToRow.ldAtMptr (rx : BitVec 4) (imm8 : BitVec 8) :
    Sys2Proof.Laws.EncodesToRow.Statement (.ldAtMptr rx imm8) := eWord_opcode1 _ _ _

theorem Sys2Proof.Laws.EncodesToRow.stAtMptr (rx : BitVec 4) (imm8 : BitVec 8) :
    Sys2Proof.Laws.EncodesToRow.Statement (.stAtMptr rx imm8) := eWord_opcode1 _ _ _

theorem Sys2Proof.Laws.EncodesToRow.ldbAtMptr (rx : BitVec 4) (imm8 : BitVec 8) :
    Sys2Proof.Laws.EncodesToRow.Statement (.ldbAtMptr rx imm8) := eWord_opcode1 _ _ _

theorem Sys2Proof.Laws.EncodesToRow.stbAtMptr (rx : BitVec 4) (imm8 : BitVec 8) :
    Sys2Proof.Laws.EncodesToRow.Statement (.stbAtMptr rx imm8) := eWord_opcode1 _ _ _

theorem Sys2Proof.Laws.EncodesToRow.lda (imm12 : BitVec 12) :
    Sys2Proof.Laws.EncodesToRow.Statement (.lda imm12) := tWord_opcode1 _ _

theorem Sys2Proof.Laws.EncodesToRow.ldmptr (imm12 : BitVec 12) :
    Sys2Proof.Laws.EncodesToRow.Statement (.ldmptr imm12) := tWord_opcode1 _ _

theorem Sys2Proof.Laws.EncodesToRow.ldmptru (imm12 : BitVec 12) :
    Sys2Proof.Laws.EncodesToRow.Statement (.ldmptru imm12) := tWord_opcode1 _ _

theorem Sys2Proof.Laws.EncodesToRow.mov (register1 register2 : RegId) :
    Sys2Proof.Laws.EncodesToRow.Statement (.mov register1 register2) := rWord_opcode1 _ _ _

theorem Sys2Proof.Laws.EncodesToRow.movFromPc (register1 : RegId) :
    Sys2Proof.Laws.EncodesToRow.Statement (.movFromPc register1) := movFromPc_word_row _

theorem Sys2Proof.Laws.EncodesToRow.jmp (register2 : RegId) :
    Sys2Proof.Laws.EncodesToRow.Statement (.jmp register2) := rWord_row _ _ _

theorem Sys2Proof.Laws.EncodesToRow.sjmp (imm12 : BitVec 12) :
    Sys2Proof.Laws.EncodesToRow.Statement (.sjmp imm12) := tWord_opcode1 _ _

theorem Sys2Proof.Laws.EncodesToRow.sjmpf (imm12 : BitVec 12) :
    Sys2Proof.Laws.EncodesToRow.Statement (.sjmpf imm12) := tWord_opcode1 _ _

theorem Sys2Proof.Laws.EncodesToRow.add (reg6 : RegId) :
    Sys2Proof.Laws.EncodesToRow.Statement (.add reg6) := rWord_row _ _ _

theorem Sys2Proof.Laws.EncodesToRow.sub (reg6 : RegId) :
    Sys2Proof.Laws.EncodesToRow.Statement (.sub reg6) := rWord_row _ _ _

theorem Sys2Proof.Laws.EncodesToRow.sla (reg6 : RegId) :
    Sys2Proof.Laws.EncodesToRow.Statement (.sla reg6) := rWord_row _ _ _

theorem Sys2Proof.Laws.EncodesToRow.sra (reg6 : RegId) :
    Sys2Proof.Laws.EncodesToRow.Statement (.sra reg6) := rWord_row _ _ _

theorem Sys2Proof.Laws.EncodesToRow.sll (reg6 : RegId) :
    Sys2Proof.Laws.EncodesToRow.Statement (.sll reg6) := rWord_row _ _ _

theorem Sys2Proof.Laws.EncodesToRow.srl (reg6 : RegId) :
    Sys2Proof.Laws.EncodesToRow.Statement (.srl reg6) := rWord_row _ _ _

theorem Sys2Proof.Laws.EncodesToRow.and (reg6 : RegId) :
    Sys2Proof.Laws.EncodesToRow.Statement (.and reg6) := rWord_row _ _ _

theorem Sys2Proof.Laws.EncodesToRow.or (reg6 : RegId) :
    Sys2Proof.Laws.EncodesToRow.Statement (.or reg6) := rWord_row _ _ _

theorem Sys2Proof.Laws.EncodesToRow.xor (reg6 : RegId) :
    Sys2Proof.Laws.EncodesToRow.Statement (.xor reg6) := rWord_row _ _ _

theorem Sys2Proof.Laws.EncodesToRow.cl (reg6 : RegId) :
    Sys2Proof.Laws.EncodesToRow.Statement (.cl reg6) := rWord_row _ _ _

theorem Sys2Proof.Laws.EncodesToRow.cg (reg6 : RegId) :
    Sys2Proof.Laws.EncodesToRow.Statement (.cg reg6) := rWord_row _ _ _

theorem Sys2Proof.Laws.EncodesToRow.ce (reg6 : RegId) :
    Sys2Proof.Laws.EncodesToRow.Statement (.ce reg6) := rWord_row _ _ _

theorem Sys2Proof.Laws.EncodesToRow.adc (reg6 : RegId) :
    Sys2Proof.Laws.EncodesToRow.Statement (.adc reg6) := rWord_row _ _ _

theorem Sys2Proof.Laws.EncodesToRow.sbb (reg6 : RegId) :
    Sys2Proof.Laws.EncodesToRow.Statement (.sbb reg6) := rWord_row _ _ _

theorem Sys2Proof.Laws.EncodesToRow.notf (opcode3 : BitVec 6) :
    Sys2Proof.Laws.EncodesToRow.Statement (.notf opcode3) := rWord_row _ _ _

theorem Sys2Proof.Laws.EncodesToRow.slai (imm6 : BitVec 6) :
    Sys2Proof.Laws.EncodesToRow.Statement (.slai imm6) := rWord_row _ _ _

theorem Sys2Proof.Laws.EncodesToRow.srai (imm6 : BitVec 6) :
    Sys2Proof.Laws.EncodesToRow.Statement (.srai imm6) := rWord_row _ _ _

theorem Sys2Proof.Laws.EncodesToRow.slli (imm6 : BitVec 6) :
    Sys2Proof.Laws.EncodesToRow.Statement (.slli imm6) := rWord_row _ _ _

theorem Sys2Proof.Laws.EncodesToRow.srli (imm6 : BitVec 6) :
    Sys2Proof.Laws.EncodesToRow.Statement (.srli imm6) := rWord_row _ _ _

theorem Sys2Proof.Laws.EncodesToRow.ldau (imm6 : BitVec 6) :
    Sys2Proof.Laws.EncodesToRow.Statement (.ldau imm6) := rWord_row _ _ _

theorem Sys2Proof.Laws.EncodesToRow.pop (reg6 : RegId) :
    Sys2Proof.Laws.EncodesToRow.Statement (.pop reg6) := rWord_row _ _ _

theorem Sys2Proof.Laws.EncodesToRow.push (reg6 : RegId) :
    Sys2Proof.Laws.EncodesToRow.Statement (.push reg6) := rWord_row _ _ _

theorem Sys2Proof.Laws.EncodesToRow.inc (reg6 : RegId) :
    Sys2Proof.Laws.EncodesToRow.Statement (.inc reg6) := rWord_row _ _ _

theorem Sys2Proof.Laws.EncodesToRow.dec (reg6 : RegId) :
    Sys2Proof.Laws.EncodesToRow.Statement (.dec reg6) := rWord_row _ _ _

theorem Sys2Proof.Laws.EncodesToRow.addi (imm8 : BitVec 8) :
    Sys2Proof.Laws.EncodesToRow.Statement (.addi imm8) := eWord_row _ _ _

theorem Sys2Proof.Laws.EncodesToRow.andi (imm8 : BitVec 8) :
    Sys2Proof.Laws.EncodesToRow.Statement (.andi imm8) := eWord_row _ _ _

theorem Sys2Proof.Laws.EncodesToRow.ori (imm8 : BitVec 8) :
    Sys2Proof.Laws.EncodesToRow.Statement (.ori imm8) := eWord_row _ _ _

theorem Sys2Proof.Laws.EncodesToRow.xori (imm8 : BitVec 8) :
    Sys2Proof.Laws.EncodesToRow.Statement (.xori imm8) := eWord_row _ _ _

theorem Sys2Proof.Laws.EncodesToRow.cli (imm8 : BitVec 8) :
    Sys2Proof.Laws.EncodesToRow.Statement (.cli imm8) := eWord_row _ _ _

theorem Sys2Proof.Laws.EncodesToRow.cgi (imm8 : BitVec 8) :
    Sys2Proof.Laws.EncodesToRow.Statement (.cgi imm8) := eWord_row _ _ _

theorem Sys2Proof.Laws.EncodesToRow.cei (imm8 : BitVec 8) :
    Sys2Proof.Laws.EncodesToRow.Statement (.cei imm8) := eWord_row _ _ _

theorem Sys2Proof.Laws.EncodesToRow.adci (imm8 : BitVec 8) :
    Sys2Proof.Laws.EncodesToRow.Statement (.adci imm8) := eWord_row _ _ _

theorem Sys2Proof.Laws.EncodesToRow.sbbi (imm8 : BitVec 8) :
    Sys2Proof.Laws.EncodesToRow.Statement (.sbbi imm8) := eWord_row _ _ _

end
end

