-- ==== Sys2Proof/Laws/Safety.lean ====
section
/-! SUPPORT. What the terms of Sys2Proof/Safety.lean mean for the access primitives, for results and for register IDs. -/

namespace Sys2Proof.Machine

/-- An access is admitted exactly when `Check` answers nothing before it looks for unwritten bytes (R56). -/
theorem admits_iff (s : State) (a : Word) (n : Width) : s.admits a n ↔ s.check a n = none := by
  rw [check_none_iff]
  unfold State.admits
  cases n <;> cases s.params.misaligned <;> simp

/-- A 2-byte access holds written bytes exactly when both are written. -/
theorem holds_two_iff (s : State) (a : Word) :
    s.holds a .two ↔ (s.byteAt a).isSome = true ∧ (s.byteAt (a + 1#16)).isSome = true := by
  simp [State.holds, touched]

/-- A 1-byte access holds a written byte exactly when it is written. -/
theorem holds_one_iff (s : State) (a : Word) : s.holds a .one ↔ (s.byteAt a).isSome = true := by
  simp [State.holds, touched]

section OnNext
variable (f : State → State)
@[simp] theorem onNext_next (t : State) : onNext f (.next t) = .next (f t) := rfl
@[simp] theorem onNext_fault (e : Fault) : onNext f (.fault e) = .fault e := rfl
@[simp] theorem onNext_refused (e : Refusal) : onNext f (.refused e) = .refused e := rfl
end OnNext

/-- An ID names the general purpose register of the same number, and no other (R32). -/
theorem mem_namedGpr (id : RegId) (j : BitVec 5) : j ∈ id.namedGpr ↔ j.toNat = id.toNat := by
  have hj := j.isLt
  unfold RegId.namedGpr
  split <;> simp [BitVec.toNat_eq] <;> omega

end Sys2Proof.Machine
end

