-- ==== Sys2Proof/Tests/Slice0.lean ====
section
/-! SUPPORT. Tests: ill-formed terms, every constructor's decoding from words written out from the encodings of 30_encoding.md, one or
two single steps per instruction with the values of 95_test_vectors.md, and witnesses that meet the hypotheses of the statements. -/

namespace Sys2Proof.Tests

open Sys2Proof.Machine

set_option Elab.async false

/-! ### Helpers -/

/-- The start state of the vectors of 95_test_vectors.md: reset, with pc at 0x0100. -/
def s0 : State := { State.reset with pc := 0x0100#16 }

/-- The start state with other parameters. -/
def s0With (f : Params → Params) : State := { s0 with params := f s0.params }

/-- A state with a register written. -/
def withR (s : State) (i : BitVec 5) (v : Word) : State := s.setR i v

/-- A state with bytes loaded. -/
def withBytes (s : State) (cells : List (Word × Byte)) : State := s.loadImage cells

/-- One step with a word placed at pc. -/
def runWord (w : Nat) (s : State) : Result := step (s.withFetchWord 16 w)

/-- A view of the next state, if there is one. -/
def view {α : Type} (r : Result) (f : State → α) : Option α :=
  match r with
  | .next t => some (f t)
  | .fault _ => none
  | .refused _ => none

/-- The fault, if the result is one. -/
def faultOf (r : Result) : Option Fault :=
  match r with
  | .next _ => none
  | .fault f => some f
  | .refused _ => none

/-- The refusal, if the result is one. -/
def refusalOf (r : Result) : Option Refusal :=
  match r with
  | .next _ => none
  | .fault _ => none
  | .refused f => some f

/-! ### Well-formedness (R34, R35, R92): each check refuses an ill-formed term -/

theorem test_mov_to_pc_is_not_wellFormed : (Instr.mov 63#6 0#6).wellFormed = false := by decide +kernel
theorem test_mov_from_pc_id_is_not_wellFormed : (Instr.mov 0#6 63#6).wellFormed = false := by decide +kernel
theorem test_jmp_pc_is_not_wellFormed : (Instr.jmp 63#6).wellFormed = false := by decide +kernel
theorem test_mov_wellFormed : (Instr.mov 62#6 60#6).wellFormed = true := by decide +kernel

theorem test_regIds_class_mov :
    (Instr.mov 32#6 0#6).regIdsAllowed = false ∧ (Instr.mov 0#6 59#6).regIdsAllowed = false ∧
    (Instr.movFromPc 40#6).regIdsAllowed = false ∧ (Instr.jmp 32#6).regIdsAllowed = false ∧
    (Instr.mov 31#6 60#6).regIdsAllowed = true := by decide +kernel

theorem test_regIds_class_stack :
    (Instr.push 60#6).regIdsAllowed = false ∧ (Instr.pop 32#6).regIdsAllowed = false ∧
    (Instr.inc 62#6).regIdsAllowed = false ∧ (Instr.dec 63#6).regIdsAllowed = false ∧
    (Instr.push 31#6).regIdsAllowed = true := by decide +kernel

theorem test_regIds_class_alu :
    (Instr.add 63#6).regIdsAllowed = false ∧ (Instr.ce 63#6).regIdsAllowed = false ∧
    (Instr.sla 32#6).regIdsAllowed = false ∧ (Instr.xor 59#6).regIdsAllowed = false ∧
    (Instr.add 62#6).regIdsAllowed = true := by decide +kernel

/-! ### Decoding of words written out bit by bit, fields from bit 15 down (R82 to R92) -/

/-- The result of the default decoder as an option. -/
def decoded (w : Word) : Option Instr :=
  match decode .standard w with
  | .ok i => some i
  | .error _ => none

/-- E-type with a register: imm8, rx, opcode1 (R83, R91). -/
theorem test_decode_etype_register :
    decoded 0b11111110_0011_0000#16 = some (.ldr 3#4 0xFE#8) ∧
    decoded 0b00010010_0011_0001#16 = some (.ldru 3#4 0x12#8) ∧
    decoded 0b11111110_0001_0010#16 = some (.ldAtMptr 1#4 0xFE#8) ∧
    decoded 0b01111111_0001_0011#16 = some (.stAtMptr 1#4 0x7F#8) ∧
    decoded 0b00000001_0010_0100#16 = some (.ldbAtMptr 2#4 0x01#8) ∧
    decoded 0b10000000_0010_0101#16 = some (.stbAtMptr 2#4 0x80#8) := by decide +kernel

/-- T-type: imm12, opcode1 (R84, R91). -/
theorem test_decode_ttype :
    decoded 0b001000110100_0110#16 = some (.lda 0x234#12) ∧
    decoded 0b100000000000_0111#16 = some (.ldmptr 0x800#12) ∧
    decoded 0b111111110001_1000#16 = some (.ldmptru 0xFF1#12) ∧
    decoded 0b111111111100_1010#16 = some (.sjmp 0xFFC#12) ∧
    decoded 0b000000000110_1011#16 = some (.sjmpf 0x006#12) := by decide +kernel

/-- The three forms of MOV: register2, register1, opcode1 1001; and MOV PC, PC (R85, R92, R135; log 14). -/
theorem test_decode_mov :
    decoded 0b111100_000001_1001#16 = some (.mov 1#6 60#6) ∧
    decoded 0b111111_000101_1001#16 = some (.movFromPc 5#6) ∧
    decoded 0b000101_111111_1001#16 = some (.jmp 5#6) ∧
    decoded 0b111111_111111_1001#16 = some (.movFromPc 63#6) := by decide +kernel

/-- R-type with opcode1 1100: reg6, opcode2 (R85, R91), the instructions on registers. -/
theorem test_decode_rtype_register :
    decoded 0b000001_000001_1100#16 = some (.add 1#6) ∧ decoded 0b000001_000010_1100#16 = some (.sub 1#6) ∧
    decoded 0b000100_000011_1100#16 = some (.sla 4#6) ∧ decoded 0b000100_000100_1100#16 = some (.sra 4#6) ∧
    decoded 0b000100_000101_1100#16 = some (.sll 4#6) ∧ decoded 0b000100_000110_1100#16 = some (.srl 4#6) ∧
    decoded 0b000011_000111_1100#16 = some (.and 3#6) ∧ decoded 0b000011_001000_1100#16 = some (.or 3#6) ∧
    decoded 0b000011_001001_1100#16 = some (.xor 3#6) ∧ decoded 0b000001_001010_1100#16 = some (.cl 1#6) ∧
    decoded 0b111110_001011_1100#16 = some (.cg 62#6) ∧ decoded 0b000001_001100_1100#16 = some (.ce 1#6) ∧
    decoded 0b000010_001101_1100#16 = some (.adc 2#6) ∧ decoded 0b000010_001110_1100#16 = some (.sbb 2#6) := by decide +kernel

/-- R-type with opcode1 1100: NOTF, the immediate shifts, LDAU and the stack family (R85, R91, R96). -/
theorem test_decode_rtype_other :
    decoded 0b111111_010000_1100#16 = some (.notf 63#6) ∧ decoded 0b000100_100011_1100#16 = some (.slai 4#6) ∧
    decoded 0b001111_100100_1100#16 = some (.srai 15#6) ∧ decoded 0b001000_100101_1100#16 = some (.slli 8#6) ∧
    decoded 0b001000_100110_1100#16 = some (.srli 8#6) ∧ decoded 0b111111_111011_1100#16 = some (.ldau 63#6) ∧
    decoded 0b000111_111100_1100#16 = some (.pop 7#6) ∧ decoded 0b000111_111101_1100#16 = some (.push 7#6) ∧
    decoded 0b011111_111110_1100#16 = some (.inc 31#6) ∧ decoded 0b000000_111111_1100#16 = some (.dec 0#6) := by decide +kernel

/-- E-type with opcode1 1101: imm8, opcode2 (R82, R91). -/
theorem test_decode_etype_immediate :
    decoded 0b11111111_0001_1101#16 = some (.addi 0xFF#8) ∧ decoded 0b00001111_0111_1101#16 = some (.andi 0x0F#8) ∧
    decoded 0b10000000_1000_1101#16 = some (.ori 0x80#8) ∧ decoded 0b01010101_1001_1101#16 = some (.xori 0x55#8) ∧
    decoded 0b00000101_1010_1101#16 = some (.cli 0x05#8) ∧ decoded 0b00000101_1011_1101#16 = some (.cgi 0x05#8) ∧
    decoded 0b00000000_1100_1101#16 = some (.cei 0x00#8) ∧ decoded 0b00000101_1101_1101#16 = some (.adci 0x05#8) ∧
    decoded 0b00000001_1110_1101#16 = some (.sbbi 0x01#8) := by decide +kernel

/-- The unassigned words of 95_test_vectors.md (R94). -/
theorem test_unassigned_words :
    decoded 0xFFFF#16 = none ∧ decoded 0x000E#16 = none ∧ decoded 0x000C#16 = none ∧ decoded 0x00FC#16 = none ∧
    decoded 0x011C#16 = none ∧ decoded 0x3BAC#16 = none ∧ decoded 0x000D#16 = none ∧ decoded 0x002D#16 = none ∧
    decoded 0x00FD#16 = none ∧ decoded 0x006D#16 = none := by decide +kernel

/-- RTYPE_LAYOUT = swapped. -/
def swappedR : Layouts := { Layouts.standard with rtypeLayout := .swapped }

/-- RTYPE_LAYOUT = swapped: the same word, the fields exchanged (R85). -/
theorem test_decode_swapped :
    decode swappedR 0x07C9#16 = .ok (.mov 1#6 60#6) ∧ decode .standard 0x07C9#16 = .ok (.mov 60#6 1#6) ∧
    decode swappedR 0xF9FC#16 = .ok (.inc 31#6) := ⟨rfl, rfl, rfl⟩

/-- ETYPE_LAYOUT = swapped (log 10): the fields of the loads and stores exchanged, the other E-type words as in Fig 9. -/
theorem test_decode_etype_swapped :
    decode { Layouts.standard with etypeLayout := .swapped } 0b0011_11111110_0000#16 = .ok (.ldr 3#4 0xFE#8) ∧
    decode { Layouts.standard with etypeLayout := .swapped } 0xFF1D#16 = .ok (.addi 0xFF#8) := ⟨rfl, rfl⟩

/-! ### Single steps, loads and stores (R110 to R119) -/

theorem test_ldr : view (runWord 0x80F0 s0) (fun t => (t.getR 15#5, t.pc)) = some (0xFF80#16, 0x0102#16) := by decide +kernel
theorem test_ldru : view (runWord 0x1231 (withR s0 3#5 0xFFFE#16)) (fun t => t.getR 3#5) = some 0x12FE#16 := by decide +kernel
theorem test_ldAtMptr :
    view (runWord 0xFE12 (withBytes s0 [(0x0000#16, 0x0A#8), (0x0001#16, 0x00#8)])) (fun t => (t.getR 1#5, t.mptr)) =
      some (0x000A#16, 0xFFFE#16) := by decide +kernel
theorem test_ldAtMptr_misaligned :
    faultOf (runWord 0x0212 { s0 with mptr := 0x0201#16 }) = some (.misalignedAccess 0x0201#16) := by decide +kernel
theorem test_stAtMptr_wraps_mptr :
    view (runWord 0x7F13 { withR s0 1#5 0x1234#16 with mptr := 0xFFFE#16 })
      (fun t => (t.mptr, t.byteAt 0xFFFE#16, t.byteAt 0xFFFF#16)) = some (0x007D#16, some 0x34#8, some 0x12#8) := by decide +kernel
theorem test_stAtMptr_split_wraps :
    view (runWord 0x0013 { withR (s0With (fun p => { p with misaligned := .split })) 1#5 0x1234#16 with mptr := 0xFFFF#16 })
      (fun t => (t.byteAt 0xFFFF#16, t.byteAt 0x0000#16)) = some (some 0x34#8, some 0x12#8) := by decide +kernel
theorem test_ldbAtMptr :
    view (runWord 0x0124 { withR (withBytes s0 [(0x0201#16, 0x80#8)]) 2#5 0xAA55#16 with mptr := 0x0201#16 })
      (fun t => (t.getR 2#5, t.mptr)) = some (0xAA80#16, 0x0202#16) := by decide +kernel
theorem test_stbAtMptr :
    view (runWord 0x8025 { withR s0 2#5 0x12FF#16 with mptr := 0x0010#16 })
      (fun t => (t.mptr, t.byteAt 0x0010#16, t.byteAt 0x0011#16, t.writtenSet)) =
        some (0xFF90#16, some 0xFF#8, none, [0x0010]) := by decide +kernel
theorem test_lda : view (runWord 0x8006 s0) (fun t => t.acc) = some 0xF800#16 := by decide +kernel
theorem test_ldmptr : view (runWord 0xFFF7 { s0 with mptr := 0xF000#16 }) (fun t => t.mptr) = some 0x0FFF#16 := by decide +kernel
theorem test_ldmptru : view (runWord 0xFF18 { s0 with mptr := 0xF234#16 }) (fun t => t.mptr) = some 0x1234#16 := by decide +kernel
theorem test_ldau : view (runWord 0xFFBC { s0 with acc := 0x0123#16 }) (fun t => t.acc) = some 0xF123#16 := by decide +kernel

/-! ### Single steps, moves and jumps (R130 to R135) -/

theorem test_mov : view (runWord 0x41F9 (withR s0 16#5 0xCAFE#16)) (fun t => t.getR 31#5) = some 0xCAFE#16 := by decide +kernel
theorem test_mov_reserved : refusalOf (runWord 0xEC09 s0) = some (.reservedRegisterId 59#6) := by decide +kernel
theorem test_movFromPc :
    view (runWord 0xFC59 { s0 with pc := 0xFFFC#16 }) (fun t => (t.getR 5#5, t.pc)) = some (0x0000#16, 0xFFFE#16) := by decide +kernel
theorem test_movFromPc_to_pc : view (runWord 0xFFF9 s0) (fun t => t.pc) = some 0x0104#16 := by decide +kernel
theorem test_jmp : view (runWord 0x17F9 (withR s0 5#5 0x0105#16)) (fun t => t.pc) = some 0x0105#16 := by decide +kernel
theorem test_sjmp : view (runWord 0xFFCA { s0 with pc := 0x0010#16 }) (fun t => t.pc) = some 0x000C#16 := by decide +kernel
theorem test_sjmp_base_next :
    view (runWord 0xFFCA { s0With (fun p => { p with branchBase := .next }) with pc := 0x0010#16 }) (fun t => t.pc) =
      some 0x000E#16 := by decide +kernel
theorem test_sjmpf_taken :
    view (runWord 0x006B { s0 with pc := 0x0020#16, flag := true }) (fun t => t.pc) = some 0x0026#16 := by decide +kernel
theorem test_sjmpf_not_taken : view (runWord 0x006B { s0 with pc := 0x0020#16 }) (fun t => t.pc) = some 0x0022#16 := by decide +kernel

/-! ### Single steps, stack, increment, decrement (R140 to R143) -/

theorem test_pop :
    view (runWord 0x1FCC { withBytes s0 [(0xFFFE#16, 0x01#8), (0xFFFF#16, 0x02#8)] with sp := 0xFFFE#16 })
      (fun t => (t.getR 7#5, t.sp)) = some (0x0201#16, 0x0000#16) := by decide +kernel
theorem test_push :
    view (runWord 0x1FDC { withR s0 7#5 0xBEEF#16 with sp := 0x1000#16 })
      (fun t => (t.sp, t.byteAt 0x0FFE#16, t.byteAt 0x0FFF#16)) = some (0x0FFE#16, some 0xEF#8, some 0xBE#8) := by decide +kernel
theorem test_push_acc_reserved : refusalOf (runWord 0xF3DC s0) = some (.reservedRegisterId 60#6) := by decide +kernel
theorem test_inc : view (runWord 0x7FEC (withR s0 31#5 0xFFFF#16)) (fun t => t.getR 31#5) = some 0x0000#16 := by decide +kernel
theorem test_dec : view (runWord 0x03FC s0) (fun t => t.getR 0#5) = some 0xFFFF#16 := by decide +kernel

/-! ### Single steps, immediate arithmetic, logic, shifts (R150 to R159) -/

theorem test_addi : view (runWord 0xFF1D { s0 with acc := 5#16 }) (fun t => (t.acc, t.carry)) = some (4#16, true) := by decide +kernel
theorem test_adci :
    view (runWord 0x00DD { s0 with acc := 0xFFFF#16, carry := true }) (fun t => (t.acc, t.carry)) = some (0#16, true) := by decide +kernel
theorem test_sbbi :
    view (runWord 0xFFED { s0 with acc := 0x1234#16 }) (fun t => (t.acc, t.carry)) = some (0x1235#16, true) := by decide +kernel
theorem test_sbbi_borrow_in :
    view (runWord 0x01ED { s0 with acc := 5#16, carry := true }) (fun t => (t.acc, t.carry)) = some (3#16, false) := by decide +kernel
theorem test_andi : view (runWord 0xF07D { s0 with acc := 0x1234#16 }) (fun t => t.acc) = some 0x1230#16 := by decide +kernel
theorem test_ori : view (runWord 0x808D { s0 with acc := 0x0001#16 }) (fun t => t.acc) = some 0xFF81#16 := by decide +kernel
theorem test_xori : view (runWord 0x559D { s0 with acc := 0x00FF#16 }) (fun t => t.acc) = some 0x00AA#16 := by decide +kernel
theorem test_slai : view (runWord 0x123C { s0 with acc := 0x1234#16 }) (fun t => t.acc) = some 0x2340#16 := by decide +kernel
theorem test_slai_mod16 :
    view (runWord 0xFE3C { s0With (fun p => { p with shiftModel := .mod16 }) with acc := 0xFFFF#16 }) (fun t => t.acc) =
      some 0x8000#16 := by decide +kernel
theorem test_srai : view (runWord 0x064C { s0 with acc := 0x8001#16 }) (fun t => t.acc) = some 0xC000#16 := by decide +kernel
theorem test_slli : view (runWord 0x225C { s0 with acc := 0x00FF#16 }) (fun t => t.acc) = some 0xFF00#16 := by decide +kernel
theorem test_srli : view (runWord 0x066C { s0 with acc := 0x8001#16 }) (fun t => t.acc) = some 0x4000#16 := by decide +kernel

/-! ### Single steps, register arithmetic, logic, shifts (R170 to R180) -/

theorem test_add :
    view (runWord 0x041C { withR s0 1#5 0x8000#16 with acc := 0x8000#16 }) (fun t => (t.acc, t.carry)) = some (0#16, true) := by
  decide +kernel
theorem test_add_sp : view (runWord 0xF81C { s0 with acc := 1#16, sp := 0x1000#16 }) (fun t => t.acc) = some 0x1001#16 := by decide +kernel
theorem test_sub :
    view (runWord 0x042C (withR s0 1#5 1#16)) (fun t => (t.acc, t.carry)) = some (0xFFFF#16, true) := by decide +kernel
theorem test_adc :
    view (runWord 0x08DC { withR s0 2#5 2#16 with acc := 1#16, carry := true }) (fun t => (t.acc, t.carry)) =
      some (4#16, false) := by decide +kernel
theorem test_adc_carry_is_flag :
    view (runWord 0x08DC { withR (s0With (fun p => { p with carryModel := .flag })) 2#5 2#16 with acc := 1#16, flag := true })
      (fun t => (t.acc, t.flag, t.carry)) = some (4#16, true, false) := by decide +kernel
theorem test_sbb :
    view (runWord 0x08EC { withR s0 2#5 0xFFFF#16 with acc := 5#16, carry := true }) (fun t => (t.acc, t.carry)) =
      some (5#16, true) := by decide +kernel
theorem test_and : view (runWord 0x0C7C { withR s0 3#5 0x0FF0#16 with acc := 0x1234#16 }) (fun t => t.acc) = some 0x0230#16 := by
  decide +kernel
theorem test_or : view (runWord 0xF48C { s0 with acc := 0x000F#16, mptr := 0x0800#16 }) (fun t => t.acc) = some 0x080F#16 := by
  decide +kernel
theorem test_xor : view (runWord 0x0C9C { withR s0 3#5 0xFFFF#16 with acc := 0x1234#16 }) (fun t => t.acc) = some 0xEDCB#16 := by
  decide +kernel
theorem test_sla : view (runWord 0x103C { withR s0 4#5 0x0100#16 with acc := 0x0001#16 }) (fun t => t.acc) = some 0x0000#16 := by
  decide +kernel
theorem test_sra : view (runWord 0x104C { withR s0 4#5 0xFFFF#16 with acc := 0x8000#16 }) (fun t => t.acc) = some 0xFFFF#16 := by
  decide +kernel
theorem test_sll : view (runWord 0xF05C { s0 with acc := 0x0003#16 }) (fun t => t.acc) = some 0x0018#16 := by decide +kernel
theorem test_srl : view (runWord 0x106C { withR s0 4#5 0x000F#16 with acc := 0x8000#16 }) (fun t => t.acc) = some 0x0001#16 := by
  decide +kernel

/-! ### Single steps, compares and flag (R190 to R196) -/

theorem test_cli : view (runWord 0x05AD { s0 with acc := 0x8000#16 }) (fun t => t.flag) = some true := by decide +kernel
theorem test_cli_unsigned :
    view (runWord 0x05AD { s0With (fun p => { p with compareModel := .unsigned }) with acc := 0x8000#16 }) (fun t => t.flag) =
      some false := by decide +kernel
theorem test_cgi : view (runWord 0x05BD { s0 with acc := 0xFFFF#16, flag := true }) (fun t => t.flag) = some false := by decide +kernel
theorem test_cei : view (runWord 0xFFCD { s0 with acc := 0x00FF#16, flag := true }) (fun t => t.flag) = some false := by decide +kernel
theorem test_cl : view (runWord 0x04AC { withR s0 1#5 1#16 with acc := 0x8000#16 }) (fun t => t.flag) = some true := by decide +kernel
theorem test_cg : view (runWord 0x04BC { withR s0 1#5 0xFFFF#16 with acc := 1#16 }) (fun t => t.flag) = some true := by decide +kernel
theorem test_ce : view (runWord 0xF0CC { s0 with acc := 9#16 }) (fun t => t.flag) = some true := by decide +kernel
theorem test_ce_pc_reserved : refusalOf (runWord 0xFCCC s0) = some (.reservedRegisterId 63#6) := by decide +kernel
theorem test_notf : view (runWord 0xFD0C { s0 with flag := true }) (fun t => (t.flag, t.pc)) = some (false, 0x0102#16) := by decide +kernel

/-! ### Stops of the step (R50, R57, R62, R94) -/

theorem test_reserved_word : refusalOf (runWord 0xFFFF s0) = some (.reservedEncoding 0xFFFF#16) := by decide +kernel
theorem test_reset_fetches_unwritten : faultOf (step State.reset) = some (.unwrittenRead 0x0000#16) := by decide +kernel
theorem test_odd_fetch : faultOf (runWord 0x0000 { s0 with pc := 0x0105#16 }) = some (.misalignedFetch 0x0105#16) := by decide +kernel
theorem test_stored_byte_not_fetched :
    faultOf (step { s0.withFetchWord 16 0x0110 with writtenSet := [0x0101] }) = some (.fetchOfWrittenByte 0x0101#16) := by decide +kernel
theorem test_stored_byte_fetched_when_coherent :
    view (step { (s0With (fun p => { p with fetchCoherence := .coherent })).withFetchWord 16 0x0110 with writtenSet := [0x0101] })
      (fun t => t.getR 1#5) = some 1#16 := by decide +kernel

/-! ### Witnesses: concrete states and operands that meet the hypotheses of the statements, each named after its statement -/

theorem witness_DecodeOfEncodeIsTheInstruction :
    (Instr.mov 62#6 0#6).wellFormed = true ∧ (Instr.jmp 62#6).wellFormed = true ∧ (Instr.movFromPc 63#6).wellFormed = true := by
  decide +kernel

theorem witness_EncodeOfDecodeIsTheWord :
    decode .standard 0xFFF9#16 = .ok (.movFromPc 63#6) ∧ decode swappedR 0x3FC9#16 = .ok (.mov 15#6 60#6) := ⟨rfl, rfl⟩

theorem witness_DecoderAgreesWithTheOpcodeTable :
    decode .standard 0x03F9#16 = .ok (.jmp 0#6) ∧ 0x03F9#16 &&& (Instr.jmp 0#6).row.mask = (Instr.jmp 0#6).row.pattern :=
  ⟨rfl, by decide +kernel⟩

/-- At the bounds of each unassigned range, a word just inside and one just outside. -/
theorem witness_UnassignedWordsAreThoseOfTheTable :
    decoded 0x022C#16 = none ∧ (decoded 0x023C#16).isSome = true ∧ decoded 0x027C#16 = none ∧ (decoded 0x026C#16).isSome = true ∧
    decoded 0x03AC#16 = none ∧ (decoded 0x03BC#16).isSome = true ∧ decoded 0x011C#16 = none ∧ (decoded 0x010C#16).isSome = true ∧
    decoded 0x006D#16 = none ∧ (decoded 0x007D#16).isSome = true ∧ decoded 0x00FD#16 = none ∧ (decoded 0x00ED#16).isSome = true ∧
    (0x022C#16).toNat % 16 = 12 ∧ (0x022C#16).toNat / 16 % 64 = 34 := by decide +kernel

/-- A PUSH under the default parameters, its register at the last ID and the stack wrapping below 0. -/
def pushState : State := (withR s0 31#5 0x0102#16).withFetchWord 16 0x7FDC

theorem witness_EveryStepKeepsTheInvariant :
    pushState.invariant = true ∧ ∃ t, step pushState = .next t ∧ t.sp = 0xFFFE#16 := ⟨by decide +kernel, _, rfl, rfl⟩

theorem witness_NoStepChangesTheParameters :
    ∃ t, step ((s0With (fun p => { p with memSize := 0x0102 })).withFetchWord 16 0x0000) = .next t := ⟨_, rfl⟩

theorem witness_WrittenSetGrowsByTheStoredBytes :
    (∃ t, exec (.push 31#6) pushState = .next t ∧ t.writtenSet = [0xFFFE, 0xFFFF]) ∧
    (∃ t, exec (.push 31#6) (s0With (fun p => { p with fetchCoherence := .coherent })) = .next t ∧ t.writtenSet = []) ∧
    ∃ t, exec (.ldr 0#4 0#8) s0 = .next t ∧ t.writtenSet = [] := ⟨⟨_, rfl, rfl⟩, ⟨_, rfl, rfl⟩, _, rfl, rfl⟩

/-- SJMP 16 to a stored byte, and one to the byte before a stored one. -/
theorem witness_AStoredByteIsNeverFetched :
    (∃ u, 0x0110 ∈ ({ s0.withFetchWord 16 0x010A with writtenSet := [0x0110] } : State).writtenSet ∧
      Host.Core.run Sys2Proof.core 1 { s0.withFetchWord 16 0x010A with writtenSet := [0x0110] } = .next u ∧ u.pc = 0x0110#16) ∧
    ∃ u, Host.Core.run Sys2Proof.core 1 { s0.withFetchWord 16 0x010A with writtenSet := [0x0111] } = .next u ∧
      u.pc + 1#16 = 0x0111#16 := ⟨⟨_, by decide +kernel, rfl, rfl⟩, _, rfl, rfl⟩

theorem witness_LaunchLoadsTheImage :
    ([(0x0000#16, 0x0A#8), (0xFFFF#16, 0x00#8)].map Prod.fst : List Word).Nodup := by decide +kernel

theorem witness_SelfJumpsAreFixedPoints :
    s0.params.branchBase = .self ∧ ({ s0 with flag := true } : State).flag = true ∧
    (s0With (fun p => { p with branchBase := .next })).params.branchBase = .next ∧
    ({ s0 with acc := 0x0100#16 } : State).readId .mov 60#6 = some 0x0100#16 ∧
    (s0.withFetchWord 16 0x000A).atEnd = true ∧ (s0.withFetchWord 16 0x002A).atEnd = false := by decide +kernel

/-- At the last even address, and at an odd address under MISALIGNED = split, where the second byte wraps to 0. -/
theorem witness_AWordPlacedAtPcRuns :
    decodeTableWord 16 0x0110 = some (.ldr 1#4 1#8) ∧ s0.params.toLayouts = defaultParams.toLayouts ∧
    isOdd 0xFFFE#16 = false ∧ (0xFFFE#16).toNat < s0.params.memSize ∧ (0xFFFE#16 + 1#16).toNat < s0.params.memSize ∧
    view (runWord 0x0110 { s0 with pc := 0xFFFE#16 }) (fun t => (t.getR 1#5, t.pc)) = some (1#16, 0#16) ∧
    view (runWord 0x0110 { s0With (fun p => { p with misaligned := .split }) with pc := 0xFFFF#16 }) (fun t => t.pc) =
      some 1#16 := by decide +kernel

theorem witness_OnlyComparesAndNotfChangeFlag :
    (∃ t, exec (.notf 0#6) s0 = .next t ∧ t.flag ≠ s0.flag) ∧ (∃ t, exec (.cei 0#8) s0 = .next t ∧ t.flag ≠ s0.flag) ∧
    ∃ t, exec (.cl 0#6) { s0 with acc := 0x8000#16 } = .next t ∧ t.flag ≠ s0.flag :=
  ⟨⟨_, rfl, by decide +kernel⟩, ⟨_, rfl, by decide +kernel⟩, _, rfl, by decide +kernel⟩

theorem witness_OnlyAddAndSubtractChangeCarry :
    (∃ t, exec (.sbbi 1#8) s0 = .next t ∧ t.carry ≠ s0.carry) ∧
    ∃ t, exec (.add 60#6) { s0 with acc := 0x8000#16 } = .next t ∧ t.carry ≠ s0.carry :=
  ⟨⟨_, rfl, by decide +kernel⟩, _, rfl, by decide +kernel⟩

theorem witness_RegistersChangeOnlyByTheirWriters :
    (∃ t, exec (.ldr 15#4 1#8) s0 = .next t ∧ t.getR 15#5 ≠ s0.getR 15#5) ∧
    (∃ t, exec (.inc 31#6) s0 = .next t ∧ t.getR 31#5 ≠ s0.getR 31#5) ∧
    (∃ t, exec (.ldmptr 1#12) s0 = .next t ∧ t.mptr ≠ s0.mptr) ∧
    (∃ t, exec (.movFromPc 62#6) s0 = .next t ∧ t.sp ≠ s0.sp) ∧
    ∃ t, exec (.ori 1#8) s0 = .next t ∧ t.acc ≠ s0.acc :=
  ⟨⟨_, rfl, by decide +kernel⟩, ⟨_, rfl, by decide +kernel⟩, ⟨_, rfl, by decide +kernel⟩, ⟨_, rfl, by decide +kernel⟩, _, rfl, by decide +kernel⟩

/-- A register just above those an E-type field reaches, and the hypotheses of the second clause for a source and a destination. -/
theorem witness_InstructionsReachExactlyTheirGeneralRegisters :
    16#5 ∉ (Instr.stAtMptr 15#4 0#8).namedGprs ∧ 15#5 ∈ (Instr.stAtMptr 15#4 0#8).namedGprs ∧
    31#5 ∈ (Instr.mov 60#6 31#6).namedGprs ∧ (Instr.mov 60#6 31#6).regIdsAllowed = true ∧
    (∀ r, Instr.mov 60#6 31#6 ≠ .mov r r) ∧ (Instr.lda 0#12).namedGprs = [] := by decide +kernel

/-- The bounds of the reserved IDs and of the IDs of R0 to R31. -/
theorem witness_RegisterIdsNameTheRegisters :
    (31#6 : RegId).toNat = (31#5 : BitVec 5).toNat ∧ 0b100000 ≤ (32#6 : RegId).toNat ∧ (59#6 : RegId).toNat ≤ 0b111011 := by
  decide +kernel

theorem witness_MemoryIsTouchedByTheOneDataAccess :
    (∃ t, exec (.push 31#6) s0 = .next t ∧ ∀ b ∈ (dataAccess (.push 31#6) s0).storedTo, b.toNat ≠ 0xFFFD) ∧
    ∃ t, exec (.ldr 0#4 0#8) s0 = .next t ∧ dataAccess (.ldr 0#4 0#8) s0 = .none := by
  refine ⟨⟨_, rfl, fun b hb => ?_⟩, _, rfl, rfl⟩
  have h : b = 0xFFFE#16 ∨ b = 0xFFFF#16 := by simpa [dataAccess, DataAccess.storedTo, touched, s0, State.reset, State.resetWith,
    unstatedResetWord] using hb
  rcases h with rfl | rfl <;> decide +kernel

theorem witness_PcAdvancesByTwoUnlessAJumpIsTaken :
    (∃ t, exec (.sjmpf 6#12) { s0 with flag := true } = .next t ∧ t.pc = 0x0106#16) ∧
    (∃ t, exec (.sjmpf 6#12) s0 = .next t ∧ t.pc = 0x0102#16) ∧ ∃ t, exec (.movFromPc 63#6) s0 = .next t ∧ t.pc = 0x0104#16 :=
  ⟨⟨_, rfl, rfl⟩, ⟨_, rfl, rfl⟩, _, rfl, rfl⟩

theorem witness_AnEvenPcBecomesOddOnlyByAnOddJump :
    isOdd s0.pc = false ∧ (∃ t, exec (.sjmp 0x7FF#12) s0 = .next t ∧ isOdd t.pc = true) ∧
    ∃ t, exec (.jmp 60#6) { s0 with acc := 1#16 } = .next t ∧ isOdd t.pc = true :=
  ⟨by decide +kernel, ⟨_, rfl, by decide +kernel⟩, _, rfl, by decide +kernel⟩

theorem witness_ExactlyReservedRegisterIdsAreRefused :
    (Instr.add 32#6).regIdsAllowed = false ∧ (Instr.add 63#6).regIdsAllowed = false ∧
    exec (.push 60#6) s0 = .refused (.reservedRegisterId 60#6) := ⟨rfl, rfl, rfl⟩

theorem witness_EveryInstructionCompletesWhenItsAccessIsAdmitted :
    (Instr.push 31#6).regIdsAllowed = true ∧ s0.accessGoesThrough (dataAccess (.push 31#6) s0) ∧
    (Instr.add 62#6).regIdsAllowed = true ∧ s0.accessGoesThrough (dataAccess (.add 62#6) s0) ∧
    (Instr.pop 0#6).regIdsAllowed = true ∧ ¬ s0.accessGoesThrough (dataAccess (.pop 0#6) s0) :=
  ⟨rfl, (admits_iff _ _ _).2 rfl, rfl, trivial, rfl, fun h => by have := (holds_two_iff _ _).1 h.2; cases this.1⟩

theorem witness_RegistersHoldTheLastValueWritten : (0#5 : BitVec 5) ≠ 31#5 := by decide +kernel

/-- The bounds of every clause. -/
theorem witness_RegisterReadById :
    (31#6 : RegId).toNat < 32 ∧ 32 ≤ (32#6 : RegId).toNat ∧ (59#6 : RegId).toNat < 60 ∧ (60#6 : RegId).toNat = 60 ∧
    (61#6 : RegId).toNat = 61 ∧ (62#6 : RegId).toNat = 62 ∧ (63#6 : RegId).toNat = 63 ∧
    s0.readId .alu 63#6 = none ∧ s0.readId .alu 60#6 = some 0#16 ∧ s0.readId .alu 31#6 = some 0#16 := by decide +kernel

/-- Bytes at both ends of memory. -/
def edges : State := withBytes s0 [(0xFFFE#16, 0x01#8), (0xFFFF#16, 0x02#8), (0x0000#16, 0x03#8), (0x0001#16, 0x04#8)]

theorem witness_MemReadGivesTheBytes :
    edges.byteAt 0xFFFF#16 = some 0x02#8 ∧ edges.admits 0xFFFF#16 .one ∧
    edges.byteAt 0xFFFE#16 = some 0x01#8 ∧ edges.admits 0xFFFE#16 .two ∧ edges.byteAt (0xFFFE#16 + 1#16) = some 0x02#8 :=
  ⟨rfl, (admits_iff _ _ _).2 rfl, rfl, (admits_iff _ _ _).2 rfl, rfl⟩

theorem witness_MemWriteChangesTheNamedBytes :
    edges.admits 0xFFFF#16 .one ∧ edges.admits 0xFFFE#16 .two ∧
    (s0With (fun p => { p with misaligned := .split })).admits 0xFFFF#16 .two :=
  ⟨(admits_iff _ _ _).2 rfl, (admits_iff _ _ _).2 rfl, (admits_iff _ _ _).2 rfl⟩

theorem witness_MixedWidthAccessesSeeTheBytes : edges.admits 0x0000#16 .two :=
  (admits_iff _ _ _).2 rfl

/-- Each clause: an odd address, the two populations at their bound, and a missing byte of each half. -/
theorem witness_AccessChecksInOrder :
    isOdd 0x0001#16 = true ∧ s0.params.misaligned = .refuse ∧ isOdd 0x0200#16 = false ∧
    (s0With (fun p => { p with memSize := 0x0200 })).params.memSize ≤ (0x0200#16).toNat ∧
    (0x0200#16).toNat < (s0With (fun p => { p with memSize := 0x0201 })).params.memSize ∧
    (s0With (fun p => { p with memSize := 0x0201 })).params.memSize ≤ (0x0200#16 + 1#16).toNat ∧
    (0x0200#16).toNat < s0.params.memSize ∧ (0x0200#16 + 1#16).toNat < s0.params.memSize ∧ s0.byteAt 0x0200#16 = none ∧
    ((withBytes s0 [(0x0200#16, 1#8)]).byteAt 0x0200#16).isSome = true ∧
    (withBytes s0 [(0x0200#16, 1#8)]).byteAt (0x0200#16 + 1#16) = none := by decide +kernel

theorem witness_AStoppedAccessStopsTheInstruction :
    s0.memRead2 s0.mptr = .error (.unwrittenRead 0#16) ∧ s0.memRead1 s0.mptr = .error (.unwrittenRead 0#16) ∧
    ({ s0 with mptr := 1#16 } : State).memWrite2 1#16 0#16 = .error (.misalignedAccess 1#16) ∧
    (s0With (fun p => { p with memSize := 0 })).memWrite1 0#16 0#8 = .error (.unpopulatedAddress 0#16) ∧
    s0.memRead2 s0.sp = .error (.unwrittenRead 0#16) ∧
    ({ s0 with sp := 1#16 } : State).memWrite2 (1#16 - 2#16) 0#16 = .error (.misalignedAccess 0xFFFF#16) :=
  ⟨rfl, rfl, rfl, rfl, rfl, rfl⟩

/-- The first byte of an instruction at 0x0100. -/
def firstByte : State := withBytes s0 [(0x0100#16, 0x10#8)]

/-- Each clause, through the stop or the word it claims. -/
theorem witness_FetchGivesTheWordOrItsStop :
    ({ s0 with pc := 1#16 } : State).fetch = .error (.misalignedFetch 1#16) ∧
    (s0With (fun p => { p with memSize := 0x0100 })).fetch = .error (.unpopulatedAddress 0x0100#16) ∧
    s0.fetch = .error (.unwrittenRead 0x0100#16) ∧
    ({ firstByte with writtenSet := [0x0100] } : State).fetch = .error (.fetchOfWrittenByte 0x0100#16) ∧
    ({ firstByte with params := { s0.params with memSize := 0x0101 } } : State).fetch = .error (.unpopulatedAddress 0x0101#16) ∧
    firstByte.fetch = .error (.unwrittenRead 0x0101#16) ∧
    ({ s0.withFetchWord 16 0x0110 with writtenSet := [0x0101] } : State).fetch = .error (.fetchOfWrittenByte 0x0101#16) ∧
    (s0.withFetchWord 16 0x0110).fetch = .ok 0x0110#16 := ⟨rfl, rfl, rfl, rfl, rfl, rfl, rfl, rfl⟩

theorem witness_AStepRunsTheDecodedInstruction :
    (s0.withFetchWord 16 0x0110).fetch = .ok 0x0110#16 ∧ decode .standard 0x0110#16 = .ok (.ldr 1#4 1#8) ∧
    (s0.withFetchWord 16 0xFFFF).fetch = .ok 0xFFFF#16 ∧ decode .standard 0xFFFF#16 = .error .unassignedOpcode1 ∧
    s0.fetch = .error (.unwrittenRead 0x0100#16) := ⟨rfl, rfl, rfl, rfl, rfl⟩

theorem witness_LdAtMptrLoadsTwoBytes :
    ({ edges with mptr := 0xFFFE#16 } : State).admits 0xFFFE#16 .two ∧ edges.byteAt 0xFFFE#16 = some 0x01#8 ∧
    edges.byteAt (0xFFFE#16 + 1#16) = some 0x02#8 := ⟨(admits_iff _ _ _).2 rfl, rfl, rfl⟩

theorem witness_StAtMptrStoresTwoBytes : ({ s0 with mptr := 0xFFFE#16 } : State).admits 0xFFFE#16 .two :=
  (admits_iff _ _ _).2 rfl

theorem witness_LdbAtMptrLoadsTheLowByte :
    ({ edges with mptr := 0xFFFF#16 } : State).admits 0xFFFF#16 .one ∧ edges.byteAt 0xFFFF#16 = some 0x02#8 :=
  ⟨(admits_iff _ _ _).2 rfl, rfl⟩

theorem witness_StbAtMptrStoresTheLowByte : ({ s0 with mptr := 0xFFFF#16 } : State).admits 0xFFFF#16 .one :=
  (admits_iff _ _ _).2 rfl

/-- A readable source, and the bounds of the clauses on the destination. -/
theorem witness_MovCopiesTheSource :
    s0.readId .mov 62#6 = some 0#16 ∧ s0.readId .mov 63#6 = some 0x0104#16 ∧ (31#6 : RegId).toNat < 32 ∧
    32 ≤ (32#6 : RegId).toNat ∧ (59#6 : RegId).toNat < 60 := by decide +kernel

theorem witness_MovFromPcCopiesPcPlusFour :
    (31#6 : RegId).toNat < 32 ∧ 32 ≤ (32#6 : RegId).toNat ∧ (59#6 : RegId).toNat < 60 := by decide +kernel

theorem witness_JumpsSetPc :
    s0.readId .mov 31#6 = some 0#16 ∧ s0.params.branchBase = .self ∧ s0.flag = false ∧
    ({ s0With (fun p => { p with branchBase := .next }) with flag := true } : State).params.branchBase = .next ∧
    ({ s0With (fun p => { p with branchBase := .next }) with flag := true } : State).flag = true := by decide +kernel

theorem witness_PopLoadsFromTheTop :
    (31#6 : RegId).toNat < 32 ∧ ({ edges with sp := 0xFFFE#16 } : State).admits 0xFFFE#16 .two ∧
    edges.byteAt 0xFFFE#16 = some 0x01#8 ∧ edges.byteAt (0xFFFE#16 + 1#16) = some 0x02#8 :=
  ⟨by decide, (admits_iff _ _ _).2 rfl, rfl, rfl⟩

theorem witness_PushStoresBelowTheTop :
    (31#6 : RegId).toNat < 32 ∧ 0xFFFE#16 = s0.sp - 2#16 ∧ s0.admits 0xFFFE#16 .two :=
  ⟨by decide, rfl, (admits_iff _ _ _).2 rfl⟩

theorem witness_PushThenPopRestores : (31#6 : RegId).toNat < 32 ∧ s0.admits (s0.sp - 2#16) .two :=
  ⟨by decide, (admits_iff _ _ _).2 rfl⟩

theorem witness_IncAndDecStepTheRegister : (31#6 : RegId).toNat < 32 ∧ 32 ≤ (32#6 : RegId).toNat := by decide +kernel

/-- Amounts at the bounds of the clauses, under each SHIFT_MODEL. -/
theorem witness_ShiftsAreMultiplicationAndFloor :
    shl .full 0xFFFF#16 16 = 0#16 ∧ shrA .full 0x8000#16 15 = 0xFFFF#16 ∧ shrA .full 0x7FFF#16 15 = 0#16 ∧
    shrA .mod16 0x8000#16 31 = 0xFFFF#16 ∧ shl .mod16 0xFFFF#16 16 = 0xFFFF#16 ∧ 31 % 16 = 15 := by decide +kernel

theorem witness_CarryPrimitives :
    s0.params.carryModel = .separate ∧ (s0With (fun p => { p with carryModel := .flag })).params.carryModel = .flag ∧
    (s0With (fun p => { p with carryModel := .draw })).params.carryModel = .draw := by decide +kernel

theorem witness_ImmediateAdditionsWriteAAndCarry :
    addC 0xFFFF#16 0x0001#16 false = (0#16, true) ∧ addC 0xFFFF#16 0xFFFF#16 true = (0xFFFF#16, true) ∧
    subB 0x0005#16 0xFFFF#16 true = (0x0005#16, true) := by decide +kernel

theorem witness_RegisterAdditionsWriteAAndCarry :
    s0.readId .alu 31#6 = some 0#16 ∧ s0.readId .alu 60#6 = some 0#16 ∧ s0.readId .alu 62#6 = some 0#16 ∧
    addC s0.acc 0#16 false = (0#16, false) ∧ subB s0.acc 0#16 s0.carryIn.1 = (0#16, false) := by decide +kernel

theorem witness_LogicWorksOnEveryBit : s0.readId .alu 31#6 = some 0#16 ∧ s0.readId .alu 62#6 = some 0#16 := by decide +kernel

theorem witness_ShiftInstructionsShiftA :
    ShiftModel.full = s0.params.shiftModel ∧ s0.readId .alu 31#6 = some 0#16 ∧ s0.readId .alu 62#6 = some 0#16 ∧
    ShiftModel.mod16 = (s0With (fun p => { p with shiftModel := .mod16 })).params.shiftModel := by decide +kernel

theorem witness_LdrLoadsTheSignExtendedByte :
    Layouts.standard.etypeLayout = .standard ∧
    ({ Layouts.standard with etypeLayout := .swapped } : Layouts).etypeLayout = .swapped := by decide +kernel

theorem witness_ImmediateComparesWriteFlag :
    CompareModel.signed = s0.params.compareModel ∧
    CompareModel.unsigned = (s0With (fun p => { p with compareModel := .unsigned })).params.compareModel := by decide +kernel

theorem witness_RegisterComparesWriteFlag :
    s0.readId .alu 62#6 = some 0#16 ∧ CompareModel.signed = s0.params.compareModel := by decide +kernel

/-- Pairs with equal and with different sign bits, one for each outcome. -/
theorem witness_OrderRelationOfTheCompares :
    (0x7FFF#16).getLsbD 15 = (0x0000#16).getLsbD 15 ∧ (0x8000#16).getLsbD 15 ≠ (0x7FFF#16).getLsbD 15 ∧
    less .signed 0x8000#16 0x7FFF#16 = true ∧ less .unsigned 0x8000#16 0x7FFF#16 = false ∧
    less .signed 0x8000#16 0x8000#16 = false := by decide +kernel

end Sys2Proof.Tests
end

section
/-! SUPPORT. How each shared operation meets a write of a general purpose register: unchanged, or the write made after it instead
of before. -/

namespace Sys2Proof.GprReach

open Sys2Proof.Machine

/-! ### Register IDs -/

/-- The registers an ID names, as the one register `gprOfId` gives (R32). -/
theorem mem_namedGpr_iff_gprOfId {id : RegId} {j : BitVec 5} : j ∈ id.namedGpr ↔ id.toNat < 32 ∧ j = gprOfId id := by
  by_cases h : id.toNat < 32 <;> simp [RegId.namedGpr, gprOfId, h]

/-- A register and an ID with the same number (R32). -/
theorem gprOfId_eq {id : RegId} {j : BitVec 5} (h : id.toNat = j.toNat) : gprOfId id = j :=
  (mem_namedGpr_iff_gprOfId.1 ((mem_namedGpr id j).2 h.symm)).2.symm

/-- Different IDs name different registers (R32). -/
theorem gprOfId_not_mem_namedGpr {d r : RegId} (hd : d.toNat < 32) (h : d ≠ r) : gprOfId d ∉ r.namedGpr := by
  rw [mem_namedGpr]
  have hnum : (gprOfId d).toNat = d.toNat := (mem_namedGpr _ _).1 (mem_namedGpr_iff_gprOfId.2 ⟨hd, rfl⟩)
  exact fun e => h (BitVec.eq_of_toNat_eq (hnum.symm.trans e))

/-- The IDs of the class MOV, one by one above R31 (R34). -/
theorem allowedMov_cases {id : RegId} (h : id.allowedMov = true) :
    id.toNat < 32 ∨ id = 60#6 ∨ id = 61#6 ∨ id = 62#6 ∨ id = 63#6 := by
  have hid := id.isLt
  simp only [RegId.allowedMov, decide_eq_true_eq] at h
  simp only [← BitVec.toNat_inj, BitVec.toNat_ofNat]
  omega

section ById
variable (s : State) (cls : RegClass) (v : Word) {id : RegId}

/-- Every class reads R0 to R31 (R34). -/
theorem readId_gpr (h : id.toNat < 32) : s.readId cls id = some (s.getR (gprOfId id)) := if_pos h

/-- Every class writes R0 to R31, and advances pc (R35). -/
theorem writeId_gpr (h : id.toNat < 32) : s.writeId cls id v = some (s.setR (gprOfId id) v).advance := if_pos h

theorem intoRegister_gpr (h : id.toNat < 32) : s.intoRegister cls id v = .next (s.setR (gprOfId id) v).advance := by
  simp [State.intoRegister, writeId_gpr, h]

theorem withOperand_gpr (h : id.toNat < 32) (k : Word → Result) :
    s.withOperand cls id k = k (s.getR (gprOfId id)) := by
  simp [State.withOperand, readId_gpr, h]

/-- No class reads a reserved ID (R33, D10). -/
theorem readId_reserved (h : 32 ≤ id.toNat) (h' : id.toNat < 60) : s.readId cls id = none := by
  simp only [State.readId, ← BitVec.toNat_inj, BitVec.toNat_ofNat]
  simp [show ¬ id.toNat < 32 by omega, show id.toNat ≠ 60 by omega, show id.toNat ≠ 61 by omega,
    show id.toNat ≠ 62 by omega, show id.toNat ≠ 63 by omega]

/-- No class writes a reserved ID (R33, D10). -/
theorem writeId_reserved (h : 32 ≤ id.toNat) (h' : id.toNat < 60) : s.writeId cls id v = none := by
  cases hw : s.writeId cls id v with
  | none => rfl
  | some t =>
    rcases writeId_cases hw with ⟨hlt, -⟩ | ⟨rfl, -⟩ | ⟨rfl, -⟩ | ⟨rfl, -⟩ | ⟨rfl, -⟩
    · omega
    all_goals exact absurd h' (by decide)

/-- The class MOV reads each of its IDs (R34). -/
theorem readId_mov_of_allowed (h : id.allowedMov = true) : ∃ x, s.readId .mov id = some x := by
  rcases allowedMov_cases h with hlt | rfl | rfl | rfl | rfl
  · exact ⟨_, readId_gpr s .mov hlt⟩
  all_goals exact ⟨_, rfl⟩

/-- The class MOV writes each of its IDs, and the ID then reads the value; the PC's ID reads 4 more (R131). -/
theorem writeId_mov_of_allowed (h : id.allowedMov = true) :
    ∃ t, s.writeId .mov id v = some t ∧ t.readId .mov id = some (if id = 63#6 then v + 4#16 else v) := by
  rcases allowedMov_cases h with hlt | rfl | rfl | rfl | rfl
  · have hne : id ≠ 63#6 := by rintro rfl; exact absurd hlt (by decide)
    refine ⟨_, writeId_gpr s .mov v hlt, ?_⟩
    rw [readId_gpr _ _ hlt, getR_congr (advance_gpr _), getR_setR, if_pos rfl, if_neg hne]
  all_goals exact ⟨_, rfl, rfl⟩
end ById

/-! ### A register written before or after an operation -/

section AfterSetR
variable (s : State) (j : BitVec 5) (v w : Word)

theorem getR_setR_same : (s.setR j v).getR j = v := by rw [getR_setR, if_pos rfl]

theorem getR_setR_of_ne {i : BitVec 5} (h : j ≠ i) : (s.setR j v).getR i = s.getR i := by rw [getR_setR, if_neg h]

/-- Writes of different registers commute (R20). -/
theorem setR_comm {i : BitVec 5} (h : j ≠ i) : (s.setR j v).setR i w = (s.setR i w).setR j v := by
  have hn : j.toNat ≠ i.toNat := fun e => h (BitVec.eq_of_toNat_eq e)
  simp only [State.setR, Vector.set_comm _ _ hn]

theorem storeByte_setR (a : Word) (b : Byte) : (s.setR j v).storeByte a b = (s.storeByte a b).setR j v := by
  simp only [State.storeByte, State.noteWritten, setR_params]
  split <;> rfl

theorem storeWord_setR (a : Word) : (s.setR j v).storeWord a w = (s.storeWord a w).setR j v := by
  simp only [State.storeWord, storeByte_setR]

theorem memWrite1_setR (a : Word) (b : Byte) :
    (s.setR j v).memWrite1 a b = (s.memWrite1 a b).map (fun t => t.setR j v) := by
  have hcheck : (s.setR j v).check a .one = s.check a .one := rfl
  unfold State.memWrite1
  rw [hcheck, storeByte_setR]
  cases s.check a .one <;> rfl

theorem memWrite2_setR (a : Word) :
    (s.setR j v).memWrite2 a w = (s.memWrite2 a w).map (fun t => t.setR j v) := by
  have hcheck : (s.setR j v).check a .two = s.check a .two := rfl
  unfold State.memWrite2
  rw [hcheck, storeWord_setR]
  cases s.check a .two <;> rfl

theorem setCarry_setR (b : Bool) : (s.setR j v).setCarry b = (s.setCarry b).setR j v := by
  simp only [State.setCarry, setR_params]
  split <;> rfl

theorem carryIn_setR : (s.setR j v).carryIn = (s.carryIn.1, s.carryIn.2.setR j v) := by
  simp only [State.carryIn, setR_params]
  split <;> rfl

/-- An ID that does not name the register reads the same after a write of it. -/
theorem readId_setR {id : RegId} {j : BitVec 5} (h : j ∉ id.namedGpr) (cls : RegClass) :
    (s.setR j v).readId cls id = s.readId cls id := by
  by_cases hid : id.toNat < 32
  · have hne : j ≠ gprOfId id := fun e => h (mem_namedGpr_iff_gprOfId.2 ⟨hid, e⟩)
    rw [readId_gpr _ _ hid, readId_gpr _ _ hid, getR_setR_of_ne _ _ _ hne]
  · simp only [State.readId, if_neg hid, setR_acc, setR_mptr, setR_sp, setR_pc]

/-- A write by an ID that does not name the register commutes with a write of it. -/
theorem writeId_setR {id : RegId} {j : BitVec 5} (h : j ∉ id.namedGpr) (cls : RegClass) :
    (s.setR j v).writeId cls id w = (s.writeId cls id w).map (fun t => t.setR j v) := by
  by_cases hid : id.toNat < 32
  · have hne : j ≠ gprOfId id := fun e => h (mem_namedGpr_iff_gprOfId.2 ⟨hid, e⟩)
    rw [writeId_gpr _ _ _ hid, writeId_gpr _ _ _ hid, setR_comm _ _ _ _ hne]
    rfl
  · simp only [State.writeId, if_neg hid, apply_ite (Option.map fun t => State.setR t j v)]
    rfl
end AfterSetR

/-! ### Meanings that ignore a register -/

/-- A meaning neither reads nor writes register `j`: the register may as well be written after it as before (R22). -/
def IgnoresReg (j : BitVec 5) (k : State → Result) : Prop :=
  ∀ (s : State) (v : Word), k (s.setR j v) = onNext (fun t => t.setR j v) (k s)

section Ignores
variable {j : BitVec 5}

theorem ignoresReg_intoAccCarry {r : State → Word × Bool} (hr : ∀ s v, r (s.setR j v) = r s) :
    IgnoresReg j (fun s => s.intoAccCarry (r s)) := by
  intro s v
  have hset := setCarry_setR { s with acc := (r s).1 } j v (r s).2
  simp only [hr]
  exact congrArg (fun t : State => Host.Outcome.next t.advance) hset

theorem ignoresReg_addWithCarry (b : Word) : IgnoresReg j (fun s => s.addWithCarry b) := by
  intro s v
  simp only [State.addWithCarry, carryIn_setR, setR_acc]
  exact ignoresReg_intoAccCarry (r := fun _ => addC s.acc b s.carryIn.1) (fun _ _ => rfl) s.carryIn.2 v

theorem ignoresReg_subWithBorrow (b : Word) : IgnoresReg j (fun s => s.subWithBorrow b) := by
  intro s v
  simp only [State.subWithBorrow, carryIn_setR, setR_acc]
  exact ignoresReg_intoAccCarry (r := fun _ => subB s.acc b s.carryIn.1) (fun _ _ => rfl) s.carryIn.2 v

theorem ignoresReg_withOperand {id : RegId} {cls : RegClass} {k : State → Word → Result} (hid : j ∉ id.namedGpr)
    (hk : ∀ w, IgnoresReg j (fun s => k s w)) : IgnoresReg j (fun s => s.withOperand cls id (k s)) := by
  intro s v
  simp only [State.withOperand, readId_setR s v hid]
  cases s.readId cls id with
  | none => rfl
  | some w => exact hk w s v

theorem ignoresReg_intoRegister {id : RegId} (cls : RegClass) (w : Word) (hid : j ∉ id.namedGpr) :
    IgnoresReg j (fun s => s.intoRegister cls id w) := by
  intro s v
  simp only [State.intoRegister, writeId_setR s v w hid]
  cases s.writeId cls id w <;> rfl

theorem ignoresReg_moveRegister {d r : RegId} (hd : j ∉ d.namedGpr) (hr : j ∉ r.namedGpr) :
    IgnoresReg j (fun s => s.moveRegister d r) :=
  ignoresReg_withOperand hr fun w => ignoresReg_intoRegister .mov w hd

/-- A meaning that reads memory, where the read does not look at the register. -/
theorem ignoresReg_onRead {α : Type} {x : State → Except Fault α} {k : State → α → Result}
    (hx : ∀ s v, x (s.setR j v) = x s) (hk : ∀ a, IgnoresReg j (fun s => k s a)) :
    IgnoresReg j (fun s => onMemory (x s) (k s)) := by
  intro s v
  simp only [hx]
  cases x s with
  | error f => rfl
  | ok a => exact hk a s v

/-- A meaning that writes memory, where the write commutes with that of the register and so does what follows. -/
theorem ignoresReg_onWrite {x : State → Except Fault State} {k : State → State → Result}
    (hx : ∀ s v, x (s.setR j v) = (x s).map (fun t => t.setR j v))
    (hk : ∀ s t v, k (s.setR j v) (t.setR j v) = onNext (fun u => u.setR j v) (k s t)) :
    IgnoresReg j (fun s => onMemory (x s) (k s)) := by
  intro s v
  simp only [hx]
  cases x s with
  | error f => rfl
  | ok t => exact hk s t v

/-- A meaning that writes another register and then does what leaves the registers alone. -/
theorem ignoresReg_setR {i : BitVec 5} {g : State → Word} {f : State → State} (h : j ≠ i)
    (hg : ∀ s v, g (s.setR j v) = g s) (hf : ∀ s v, f (s.setR j v) = (f s).setR j v) :
    IgnoresReg j (fun s => .next (f (s.setR i (g s)))) := by
  intro s v
  simp only [hg, setR_comm s j v _ h, hf, onNext_next]
end Ignores

end Sys2Proof.GprReach
end

section
/-! SUPPORT. Which general purpose registers an instruction ignores, and which it reaches (R22). An instruction's register operand is
treated once: a meaning over a state and an operand, which reaches no register itself. -/

namespace Sys2Proof.GprReach

open Sys2Proof.Machine

/-! ### Observing a result -/

/-- What is seen of the next state, if there is one. -/
def observe {α : Type} (f : State → α) : Result → Option α
  | .next t => some (f t)
  | .fault _ => none
  | .refused _ => none

/-- An observation that does not look at what an update changes is the same before and after it. -/
theorem observe_onNext {α : Type} {f : State → α} {g : State → State} (h : ∀ t, f (g t) = f t) (r : Result) :
    observe f (onNext g r) = observe f r := by
  cases r <;> simp [observe, h]

/-- A, the flag and memory: where a read register can show. -/
def accFlagMem (t : State) : Word × Bool × Memory := (t.acc, t.flag, t.mem)

/-- A state with zero in every register but A, and two zero bytes in memory at MPTR and SP. -/
def probe (a : Word) : State := { State.reset with acc := a, mem := [(0, 0#8), (1, 0#8)] }

theorem getR_probe (a : Word) (j : BitVec 5) : (probe a).getR j = 0#16 := by
  simp [probe, State.getR, State.reset, State.resetWith, unstatedResetWord]

section
variable (a v : Word) (j : BitVec 5)

theorem memRead2_setR_probe : ((probe a).setR j v).memRead2 0#16 = .ok 0#16 := rfl

theorem memRead1_setR_probe : ((probe a).setR j v).memRead1 0#16 = .ok 0#8 := rfl
end

/-! ### Meanings that reach a register -/

section Reaches
variable {j : BitVec 5} {k : State → Result} {s t : State} {v : Word}

/-- A meaning that leaves in the register another value than the one put there before it writes the register. -/
theorem not_ignoresReg_of_write (h : k (s.setR j v) = .next t) (hne : t.getR j ≠ v) : ¬ IgnoresReg j k := by
  intro hk
  have hafter := (hk s v).symm.trans h
  cases hks : k s with
  | next u =>
    rw [hks, onNext_next] at hafter
    cases hafter
    exact hne (getR_setR_same u j v)
  | fault f => rw [hks] at hafter; cases hafter
  | refused r => rw [hks] at hafter; cases hafter

/-- A meaning over a state and an operand that shows whether the operand is 1 or 0 reads the register the operand comes from. -/
theorem not_ignoresReg_of_read {α : Type} (f : State → α) {m : State → Word → Result}
    (hf : ∀ (t : State) (v : Word), f (t.setR j v) = f t) (hm : ∀ w, IgnoresReg j (fun s => m s w)) (a : Word)
    (hne : observe f (m (probe a) 1#16) ≠ observe f (m (probe a) 0#16)) :
    ¬ IgnoresReg j (fun s => m s (s.getR j)) := by
  intro hk
  apply hne
  have hafter := hk (probe a) 1#16
  simp only [getR_setR_same, getR_probe] at hafter
  calc observe f (m (probe a) 1#16)
      = observe f (onNext (fun t => t.setR j 1#16) (m (probe a) 1#16)) := (observe_onNext (fun t => hf t _) _).symm
    _ = observe f (m ((probe a).setR j 1#16) 1#16) := congrArg (observe f) (hm 1#16 (probe a) 1#16).symm
    _ = observe f (onNext (fun t => t.setR j 1#16) (m (probe a) 0#16)) := by rw [hafter]
    _ = observe f (m (probe a) 0#16) := observe_onNext (fun t => hf t _) _

theorem not_ignoresReg_withOperand {α : Type} {id : RegId} {cls : RegClass} {m : State → Word → Result} (f : State → α)
    (hid : id.toNat < 32) (hf : ∀ (t : State) (v : Word), f (t.setR (gprOfId id) v) = f t)
    (hm : ∀ w, IgnoresReg (gprOfId id) (fun s => m s w)) (a : Word)
    (hne : observe f (m (probe a) 1#16) ≠ observe f (m (probe a) 0#16)) :
    ¬ IgnoresReg (gprOfId id) (fun s => s.withOperand cls id (m s)) := by
  simpa only [withOperand_gpr _ cls hid] using not_ignoresReg_of_read f hf hm a hne
end Reaches

/-! ### E-type loads and stores (R110 to R115) -/

/-- The E-type instructions over one register field and one immediate (R110 to R115). -/
def eTypeInstrs (rx : BitVec 4) (imm8 : BitVec 8) : List Instr :=
  [.ldr rx imm8, .ldru rx imm8, .ldAtMptr rx imm8, .stAtMptr rx imm8, .ldbAtMptr rx imm8, .stbAtMptr rx imm8]

section EType
variable {rx : BitVec 4} {imm8 : BitVec 8} {i : Instr}

theorem highByte_withHighByte (v : Word) (b : Byte) : highByte (withHighByte v b) = b := highByte_wordOfBytes (lowByte v) b

/-- A store at MPTR, as a meaning over the value of its register, reaches no register itself. -/
theorem ignoresReg_storeWordAtMptr (j : BitVec 5) (w : Word) :
    IgnoresReg j (fun s => onMemory (s.memWrite2 s.mptr w) fun t => .next (t.bumpMptr imm8)) :=
  ignoresReg_onWrite (fun s v => memWrite2_setR s j v w s.mptr) fun _ _ _ => rfl

theorem ignoresReg_storeByteAtMptr (j : BitVec 5) (b : Byte) :
    IgnoresReg j (fun s => onMemory (s.memWrite1 s.mptr b) fun t => .next (t.bumpMptr imm8)) :=
  ignoresReg_onWrite (fun s v => memWrite1_setR s j v s.mptr b) fun _ _ _ => rfl

/-- Where the value stored shows. -/
theorem observe_storeWordAtMptr_probe (w : Word) :
    observe accFlagMem (onMemory ((probe 0#16).memWrite2 (probe 0#16).mptr w) fun t => .next (t.bumpMptr imm8)) =
      some (0#16, false, [(0, lowByte w), (1, highByte w)]) := rfl

theorem observe_storeByteAtMptr_probe (b : Byte) :
    observe accFlagMem (onMemory ((probe 0#16).memWrite1 (probe 0#16).mptr b) fun t => .next (t.bumpMptr imm8)) =
      some (0#16, false, [(0, b), (1, 0#8)]) := rfl

/-- R112: LD@MPTR where the read gives a value. -/
theorem exec_ldAtMptr_of_read {s : State} {w : Word} (h : s.memRead2 s.mptr = .ok w) :
    exec (.ldAtMptr rx imm8) s = .next ((s.setR (etypeReg rx) w).bumpMptr imm8) := by
  simp only [exec, execLdAtMptr, h, onMemory]

/-- R114: LDB@MPTR where the read gives a byte. -/
theorem exec_ldbAtMptr_of_read {s : State} {b : Byte} (h : s.memRead1 s.mptr = .ok b) :
    exec (.ldbAtMptr rx imm8) s =
      .next ((s.setR (etypeReg rx) (withLowByte (s.getR (etypeReg rx)) b)).bumpMptr imm8) := by
  simp only [exec, execLdbAtMptr, h, onMemory]

theorem exec_eType_ignoresReg {j : BitVec 5} (hj : j ≠ etypeReg rx) (hi : i ∈ eTypeInstrs rx imm8) :
    IgnoresReg j (exec i) := by
  have hget : ∀ (s : State) (v : Word), (s.setR j v).getR (etypeReg rx) = s.getR (etypeReg rx) :=
    fun s v => getR_setR_of_ne s j v hj
  simp only [eTypeInstrs, List.mem_cons, List.not_mem_nil, or_false] at hi
  rcases hi with rfl | rfl | rfl | rfl | rfl | rfl
  · exact ignoresReg_setR (f := State.advance) hj (fun _ _ => rfl) fun _ _ => rfl
  · exact ignoresReg_setR (g := fun s => withHighByte (s.getR (etypeReg rx)) imm8) (f := State.advance) hj
      (fun s v => by rw [hget]) fun _ _ => rfl
  · exact ignoresReg_onRead (fun _ _ => rfl) fun w =>
      ignoresReg_setR (g := fun _ => w) (f := fun t => t.bumpMptr imm8) hj (fun _ _ => rfl) fun _ _ => rfl
  · intro s v
    simp only [exec, execStAtMptr, hget]
    exact ignoresReg_storeWordAtMptr j (s.getR (etypeReg rx)) s v
  · exact ignoresReg_onRead (fun _ _ => rfl) fun b =>
      ignoresReg_setR (g := fun s => withLowByte (s.getR (etypeReg rx)) b) (f := fun t => t.bumpMptr imm8) hj
        (fun s v => by rw [hget]) fun _ _ => rfl
  · intro s v
    simp only [exec, execStbAtMptr, hget]
    exact ignoresReg_storeByteAtMptr j (lowByte (s.getR (etypeReg rx))) s v

theorem exec_eType_reaches (hi : i ∈ eTypeInstrs rx imm8) :
    ¬ IgnoresReg (etypeReg rx) (exec i) := by
  simp only [eTypeInstrs, List.mem_cons, List.not_mem_nil, or_false] at hi
  rcases hi with rfl | rfl | rfl | rfl | rfl | rfl
  · refine not_ignoresReg_of_write (s := probe 0#16) (v := sext16 imm8 + 1#16) rfl ?_
    rw [getR_congr (advance_gpr _), getR_setR_same]
    simp
  · refine not_ignoresReg_of_write (s := probe 0#16) (v := withHighByte 0#16 (imm8 + 1#8)) rfl fun h => ?_
    rw [getR_congr (advance_gpr _), getR_setR_same, getR_setR_same] at h
    have hhigh : imm8 = imm8 + 1#8 := by simpa only [highByte_withHighByte] using congrArg highByte h
    simp at hhigh
  · refine not_ignoresReg_of_write (exec_ldAtMptr_of_read (memRead2_setR_probe 0#16 1#16 _)) ?_
    rw [getR_congr (bumpMptr_gpr _ _), getR_setR_same]
    decide
  · refine not_ignoresReg_of_read accFlagMem (fun _ _ => rfl) (ignoresReg_storeWordAtMptr _) 0#16 ?_
    rw [observe_storeWordAtMptr_probe, observe_storeWordAtMptr_probe]
    decide
  · refine not_ignoresReg_of_write (exec_ldbAtMptr_of_read (memRead1_setR_probe 0#16 1#16 _)) ?_
    rw [getR_congr (bumpMptr_gpr _ _), getR_setR_same, getR_setR_same]
    decide
  · refine not_ignoresReg_of_read accFlagMem (fun _ _ => rfl) (fun w => ignoresReg_storeByteAtMptr _ (lowByte w)) 0#16 ?_
    rw [observe_storeByteAtMptr_probe, observe_storeByteAtMptr_probe]
    decide
end EType

/-! ### MOV and its PC forms (R130 to R132, R135) -/

theorem not_mem_namedGpr_pcId (j : BitVec 5) : j ∉ RegId.pcId.namedGpr := List.not_mem_nil

section Move
variable {d r : RegId}

/-- A move writes its destination, unless source and destination are one. -/
theorem moveRegister_reaches_destination (hd : d.toNat < 32) (hr : r.allowedMov = true) (hne : d ≠ r) :
    ¬ IgnoresReg (gprOfId d) (fun s => s.moveRegister d r) := by
  obtain ⟨x, hx⟩ := readId_mov_of_allowed (probe 0#16) hr
  have hrun : ((probe 0#16).setR (gprOfId d) (x + 1#16)).moveRegister d r =
      .next (((probe 0#16).setR (gprOfId d) (x + 1#16)).setR (gprOfId d) x).advance := by
    simp [State.moveRegister, State.withOperand, readId_setR _ _ (gprOfId_not_mem_namedGpr hd hne), hx, intoRegister_gpr, hd]
  refine not_ignoresReg_of_write hrun ?_
  rw [getR_congr (advance_gpr _), getR_setR_same]
  simp

/-- What a move put into its destination, read back through the destination's ID. -/
theorem observe_intoRegister_mov (s : State) (v : Word) (hd : d.allowedMov = true) :
    observe (fun t => t.readId .mov d) (s.intoRegister .mov d v) = some (some (if d = 63#6 then v + 4#16 else v)) := by
  obtain ⟨t, hwrite, hread⟩ := writeId_mov_of_allowed s v hd
  simp [State.intoRegister, hwrite, observe, hread]

/-- A move reads its source, unless source and destination are one. -/
theorem moveRegister_reaches_source (hr : r.toNat < 32) (hd : d.allowedMov = true) (hne : d ≠ r) :
    ¬ IgnoresReg (gprOfId r) (fun s => s.moveRegister d r) := by
  have hj : gprOfId r ∉ d.namedGpr := gprOfId_not_mem_namedGpr hr hne.symm
  refine not_ignoresReg_withOperand (fun t => t.readId .mov d) hr (fun t v => readId_setR t v hj .mov)
    (fun w => ignoresReg_intoRegister .mov w hj) 0#16 ?_
  rw [observe_intoRegister_mov _ _ hd, observe_intoRegister_mov _ _ hd]
  split <;> decide
end Move

/-! ### The register arithmetic, logic, shift and compare instructions (R170 to R180, R193 to R195) -/

/-- A meaning `m` over a state and an operand: it reaches no general purpose register itself, and its result depends on the operand. -/
structure UsesOperandOnly (m : State → Word → Result) : Prop where
  ignoresReg : ∀ (j : BitVec 5) (w : Word), IgnoresReg j (fun s => m s w)
  dependsOnOperand : ∃ a : Word, observe accFlagMem (m (probe a) 1#16) ≠ observe accFlagMem (m (probe a) 0#16)

/-- The instructions of the class ALU over one register ID (R34). -/
def aluRegInstrs (r : RegId) : List Instr :=
  [.add r, .sub r, .adc r, .sbb r, .and r, .or r, .xor r, .sla r, .sra r, .sll r, .srl r, .cl r, .cg r, .ce r]

section AluReg
variable {r : RegId} {i : Instr}

/-- Each instruction of the class ALU hands its register operand to a meaning that uses nothing else of the registers; A holds 0 or 1
where the operands 1 and 0 are told apart. -/
theorem exec_aluReg (hi : i ∈ aluRegInstrs r) :
    ∃ m, exec i = (fun s => s.withOperand .alu r (m s)) ∧ UsesOperandOnly m := by
  simp only [aluRegInstrs, List.mem_cons, List.not_mem_nil, or_false] at hi
  rcases hi with rfl | rfl | rfl | rfl | rfl | rfl | rfl | rfl | rfl | rfl | rfl | rfl | rfl | rfl
  · exact ⟨_, rfl, fun _ _ => ignoresReg_intoAccCarry fun _ _ => rfl, 0#16, by decide⟩
  · exact ⟨_, rfl, fun _ _ => ignoresReg_intoAccCarry fun _ _ => rfl, 0#16, by decide⟩
  · exact ⟨_, rfl, fun _ _ => ignoresReg_addWithCarry _, 0#16, by decide⟩
  · exact ⟨_, rfl, fun _ _ => ignoresReg_subWithBorrow _, 0#16, by decide⟩
  · exact ⟨_, rfl, fun _ _ _ _ => rfl, 1#16, by decide⟩
  · exact ⟨_, rfl, fun _ _ _ _ => rfl, 0#16, by decide⟩
  · exact ⟨_, rfl, fun _ _ _ _ => rfl, 0#16, by decide⟩
  · exact ⟨_, rfl, fun _ _ _ _ => rfl, 1#16, by decide⟩
  · exact ⟨_, rfl, fun _ _ _ _ => rfl, 1#16, by decide⟩
  · exact ⟨_, rfl, fun _ _ _ _ => rfl, 1#16, by decide⟩
  · exact ⟨_, rfl, fun _ _ _ _ => rfl, 1#16, by decide⟩
  · exact ⟨_, rfl, fun _ _ _ _ => rfl, 0#16, by decide⟩
  · exact ⟨_, rfl, fun _ _ _ _ => rfl, 1#16, by decide⟩
  · exact ⟨_, rfl, fun _ _ _ _ => rfl, 0#16, by decide⟩

theorem exec_aluReg_ignoresReg {j : BitVec 5} (hj : j ∉ r.namedGpr) (hi : i ∈ aluRegInstrs r) :
    IgnoresReg j (exec i) := by
  obtain ⟨m, hexec, hm⟩ := exec_aluReg hi
  rw [hexec]
  exact ignoresReg_withOperand hj (hm.ignoresReg j)

theorem exec_aluReg_reaches (hr : r.toNat < 32) (hi : i ∈ aluRegInstrs r) :
    ¬ IgnoresReg (gprOfId r) (exec i) := by
  obtain ⟨m, hexec, hm⟩ := exec_aluReg hi
  obtain ⟨a, hne⟩ := hm.dependsOnOperand
  rw [hexec]
  exact not_ignoresReg_withOperand accFlagMem hr (fun _ _ => rfl) (hm.ignoresReg _) a hne
end AluReg

/-! ### POP, PUSH, INC and DEC (R140 to R143) -/

section Stack
variable {r : RegId}

/-- A push, as a meaning over the value pushed, reaches no register itself. -/
theorem ignoresReg_pushValue (j : BitVec 5) (w : Word) :
    IgnoresReg j (fun s => onMemory (s.memWrite2 s.pushAddr w) fun t => .next { t with sp := s.pushAddr }.advance) :=
  ignoresReg_onWrite (fun s v => memWrite2_setR s j v w s.pushAddr) fun _ _ _ => rfl

theorem exec_push_reaches (hr : r.toNat < 32) : ¬ IgnoresReg (gprOfId r) (exec (.push r)) :=
  not_ignoresReg_withOperand accFlagMem hr (fun _ _ => rfl) (ignoresReg_pushValue _) 0#16 (by decide)

/-- R140: POP where the read gives a value. -/
theorem exec_pop_of_read {s : State} {w : Word} (hr : r.toNat < 32) (h : s.memRead2 s.sp = .ok w) :
    exec (.pop r) s = .next ({ s with sp := s.sp + 2#16 }.setR (gprOfId r) w).advance := by
  simp only [exec, execPop, withOperand_gpr _ _ hr, h, onMemory, intoRegister_gpr _ _ _ hr]

/-- A POP of two zero bytes leaves no 1 in its register. -/
theorem exec_pop_reaches (hr : r.toNat < 32) : ¬ IgnoresReg (gprOfId r) (exec (.pop r)) := by
  refine not_ignoresReg_of_write (exec_pop_of_read hr (memRead2_setR_probe 0#16 1#16 _)) ?_
  rw [getR_congr (advance_gpr _), getR_setR_same]
  decide

/-- An instruction that puts `f` of its register back into it, where `f` moves 0. -/
theorem stepRegister_reaches {f : Word → Word} (hr : r.toNat < 32) (hf : f 0#16 ≠ 0#16) :
    ¬ IgnoresReg (gprOfId r) (fun s => s.withOperand .stack r fun v => s.intoRegister .stack r (f v)) := by
  refine not_ignoresReg_of_write (s := probe 0#16) (v := 0#16)
    ((withOperand_gpr _ .stack hr _).trans (intoRegister_gpr _ .stack _ hr)) ?_
  rwa [getR_congr (advance_gpr _), getR_setR_same, getR_setR_same]
end Stack

/-! ### Every instruction -/

/-- R22: an instruction neither reads nor writes a general purpose register its fields do not name. -/
theorem exec_ignoresReg {i : Instr} {j : BitVec 5} (hj : j ∉ i.namedGprs) : IgnoresReg j (exec i) := by
  cases i with
  | ldr rx imm8 | ldru rx imm8 | ldAtMptr rx imm8 | stAtMptr rx imm8 | ldbAtMptr rx imm8 | stbAtMptr rx imm8 =>
    exact exec_eType_ignoresReg (imm8 := imm8) (mt List.mem_singleton.2 hj) (by simp [eTypeInstrs])
  | mov d r =>
    obtain ⟨hd, hr⟩ := not_or.1 (mt List.mem_append.2 hj)
    exact ignoresReg_moveRegister hd hr
  | movFromPc d => exact ignoresReg_moveRegister hj (not_mem_namedGpr_pcId j)
  | jmp r => exact ignoresReg_moveRegister (not_mem_namedGpr_pcId j) hj
  | add r | sub r | adc r | sbb r | and r | or r | xor r | sla r | sra r | sll r | srl r | cl r | cg r | ce r =>
    exact exec_aluReg_ignoresReg hj (by simp [aluRegInstrs])
  | pop r =>
    exact ignoresReg_withOperand hj fun _ => ignoresReg_onRead (fun _ _ => rfl) fun w s v =>
      ignoresReg_intoRegister .stack w hj { s with sp := s.sp + 2#16 } v
  | push r => exact ignoresReg_withOperand hj (ignoresReg_pushValue j)
  | inc r | dec r => exact ignoresReg_withOperand hj fun _ => ignoresReg_intoRegister .stack _ hj
  | addi imm8 => exact ignoresReg_intoAccCarry fun _ _ => rfl
  | adci imm8 => exact ignoresReg_addWithCarry _
  | sbbi imm8 => exact ignoresReg_subWithBorrow _
  | sjmpf imm12 =>
    intro s v
    simp only [exec, execSjmpf, apply_ite (onNext _)]
    rfl
  | lda _ | ldmptr _ | ldmptru _ | ldau _ | sjmp _ | notf _ | slai _ | srai _ | slli _ | srli _
  | andi _ | ori _ | xori _ | cli _ | cgi _ | cei _ => exact fun _ _ => rfl

/-- R22: an instruction with usable IDs reads or writes each general purpose register its fields name, but for a MOV of a register
to itself. -/
theorem exec_reaches {i : Instr} {j : BitVec 5} (hj : j ∈ i.namedGprs) (hids : i.regIdsAllowed = true)
    (hmov : ∀ r, i ≠ .mov r r) : ¬ IgnoresReg j (exec i) := by
  cases i with
  | ldr rx imm8 | ldru rx imm8 | ldAtMptr rx imm8 | stAtMptr rx imm8 | ldbAtMptr rx imm8 | stbAtMptr rx imm8 =>
    obtain rfl := List.mem_singleton.1 hj
    exact exec_eType_reaches (imm8 := imm8) (by simp [eTypeInstrs])
  | mov d r =>
    have hne : d ≠ r := by rintro rfl; exact hmov d rfl
    obtain ⟨hd, hr⟩ := Bool.and_eq_true_iff.1 hids
    rcases List.mem_append.1 hj with hj | hj <;> obtain ⟨hlt, rfl⟩ := mem_namedGpr_iff_gprOfId.1 hj
    · exact moveRegister_reaches_destination hlt hr hne
    · exact moveRegister_reaches_source hlt hd hne
  | movFromPc d =>
    obtain ⟨hlt, rfl⟩ := mem_namedGpr_iff_gprOfId.1 hj
    have hne : d ≠ RegId.pcId := by rintro rfl; exact absurd hlt (by decide)
    exact moveRegister_reaches_destination hlt rfl hne
  | jmp r =>
    obtain ⟨hlt, rfl⟩ := mem_namedGpr_iff_gprOfId.1 hj
    have hne : RegId.pcId ≠ r := by rintro rfl; exact absurd hlt (by decide)
    exact moveRegister_reaches_source hlt rfl hne
  | add r | sub r | adc r | sbb r | and r | or r | xor r | sla r | sra r | sll r | srl r | cl r | cg r | ce r =>
    obtain ⟨hlt, rfl⟩ := mem_namedGpr_iff_gprOfId.1 hj
    exact exec_aluReg_reaches hlt (by simp [aluRegInstrs])
  | pop r => obtain ⟨hlt, rfl⟩ := mem_namedGpr_iff_gprOfId.1 hj; exact exec_pop_reaches hlt
  | push r => obtain ⟨hlt, rfl⟩ := mem_namedGpr_iff_gprOfId.1 hj; exact exec_push_reaches hlt
  | inc r => obtain ⟨hlt, rfl⟩ := mem_namedGpr_iff_gprOfId.1 hj; exact stepRegister_reaches hlt (by decide)
  | dec r => obtain ⟨hlt, rfl⟩ := mem_namedGpr_iff_gprOfId.1 hj; exact stepRegister_reaches hlt (by decide)
  | lda _ | ldmptr _ | ldmptru _ | ldau _ | sjmp _ | sjmpf _ | notf _ | slai _ | srai _ | slli _ | srli _
  | addi _ | adci _ | sbbi _ | andi _ | ori _ | xori _ | cli _ | cgi _ | cei _ => cases hj

end Sys2Proof.GprReach
end

section
/-! The register statements settled: which registers the IDs name (R32), and which registers each instruction reaches (R22). -/

namespace Sys2Proof.GprReach

open Sys2Proof.Machine

/-! ### What the fields name -/

/-- An E-type field names the register of the ID with upper bits 00 and the field below them (R32). -/
theorem namedGpr_etypeId (rx : BitVec 4) : RegId.namedGpr (0b00#2 ++ rx) = [etypeReg rx] := by
  have hrx := rx.isLt
  have hnum : (0b00#2 ++ rx : RegId).toNat = rx.toNat := by rw [BitVec.toNat_append]; simp
  have hreg : (0b00#2 ++ rx : RegId).setWidth 5 = etypeReg rx :=
    gprOfId_eq (by rw [hnum, etypeReg, BitVec.toNat_setWidth_of_le (by decide)])
  rw [RegId.namedGpr, if_pos (by omega), hreg]

/-- The 4-bit fields name R0 to R15 (R22, R32). -/
theorem exists_etypeReg_iff (j : BitVec 5) : (∃ rx : BitVec 4, rx.setWidth 5 = j) ↔ j.toNat < 16 := by
  constructor
  · rintro ⟨rx, rfl⟩
    have hrx := rx.isLt
    rw [BitVec.toNat_setWidth]
    omega
  · intro hj
    refine ⟨j.setWidth 4, BitVec.eq_of_toNat_eq ?_⟩
    rw [BitVec.toNat_setWidth, BitVec.toNat_setWidth]
    omega

/-- The instructions with one 6-bit register field, MOV's PC forms apart (R34). -/
def reg6Instrs (r : RegId) : List Instr := [.pop r, .push r, .inc r, .dec r] ++ aluRegInstrs r

theorem namedGprs_eTypeInstrs (rx : BitVec 4) (imm8 : BitVec 8) :
    ∀ i ∈ eTypeInstrs rx imm8, i.namedGprs = [rx.setWidth 5] := by
  simp [eTypeInstrs, Instr.namedGprs]

theorem namedGprs_reg6Instrs (r : RegId) : ∀ i ∈ reg6Instrs r, i.namedGprs = r.namedGpr := by
  simp [reg6Instrs, aluRegInstrs, Instr.namedGprs]

/-- Only the E-type loads and stores, MOV with its PC forms, and the instructions with one 6-bit register field name a register. -/
theorem class_of_namedGprs_ne_nil {i : Instr} (hi : i.namedGprs ≠ []) :
    (∃ rx imm8, i ∈ eTypeInstrs rx imm8) ∨ (∃ d r, i ∈ [.mov d r, .movFromPc d, .jmp r]) ∨ ∃ r, i ∈ reg6Instrs r := by
  cases i with
  | ldr rx imm | ldru rx imm | ldAtMptr rx imm | stAtMptr rx imm | ldbAtMptr rx imm | stbAtMptr rx imm =>
    exact .inl ⟨rx, imm, by simp [eTypeInstrs]⟩
  | mov d r => exact .inr (.inl ⟨d, r, by simp⟩)
  | movFromPc d => exact .inr (.inl ⟨d, d, by simp⟩)
  | jmp r => exact .inr (.inl ⟨r, r, by simp⟩)
  | pop r | push r | inc r | dec r | add r | sub r | adc r | sbb r | and r | or r | xor r | sla r | sra r | sll r | srl r
  | cl r | cg r | ce r => exact .inr (.inr ⟨r, by simp [reg6Instrs, aluRegInstrs]⟩)
  | lda _ | ldmptr _ | ldmptru _ | ldau _ | sjmp _ | sjmpf _ | notf _ | slai _ | srai _ | slli _ | srli _
  | addi _ | adci _ | sbbi _ | andi _ | ori _ | xori _ | cli _ | cgi _ | cei _ => exact absurd rfl hi

/-- Settles O18: the two directions are `exec_ignoresReg` and `exec_reaches`, the rest is what the fields name. -/
theorem instructionsReachExactlyTheirGeneralRegisters : Obligations.InstructionsReachExactlyTheirGeneralRegisters := by
  refine ⟨fun i s j v hj => exec_ignoresReg hj s v, fun i j hj hids hmov => ?_, namedGprs_eTypeInstrs,
    exists_etypeReg_iff, fun d r j => ⟨?_, mem_namedGpr d j, mem_namedGpr r j⟩, fun r j i hi => ?_,
    fun _ hi => class_of_namedGprs_ne_nil hi⟩
  · have hreach := exec_reaches hj hids hmov
    simpa only [IgnoresReg, not_forall] using hreach
  · rw [← mem_namedGpr d, ← mem_namedGpr r]
    exact List.mem_append
  · rw [namedGprs_reg6Instrs r i hi, mem_namedGpr]

/-- Settles O25, ID range by ID range. -/
theorem registerIdsNameTheRegisters : Obligations.RegisterIdsNameTheRegisters := by
  intro s v
  refine ⟨fun id j hnum => ?_, fun id hlow hhigh cls => ?_, ⟨rfl, _, rfl, rfl⟩, ⟨rfl, _, rfl, rfl⟩, ⟨rfl, _, rfl, rfl⟩,
    ⟨_, rfl, rfl⟩, fun rx imm i hi => ?_⟩
  · have hlt : id.toNat < 32 := hnum ▸ j.isLt
    obtain rfl := gprOfId_eq hnum
    refine ⟨fun cls => readId_gpr s cls hlt, _, writeId_gpr s .mov v hlt, ?_⟩
    rw [getR_congr (advance_gpr _), getR_setR_same]
  · have hhigh' : id.toNat < 60 := by omega
    exact ⟨readId_reserved s cls hlow hhigh', writeId_reserved s cls v hlow hhigh'⟩
  · rw [namedGpr_etypeId, namedGprs_eTypeInstrs rx imm i hi]
    rfl

end Sys2Proof.GprReach
end

section
/-! SUPPORT. The fields of an instruction word read back from the encoder's word forms, and a word put together again from its
fields, under every layout (R82 to R86). -/

namespace Sys2Proof.Encoding

/-! ### Fields of the word forms -/

section Fields
variable (e : ETypeLayout) (t : TTypeLayout) (r : RTypeLayout)
variable (imm : BitVec 8) (wide : BitVec 12) (rx field op : BitVec 4) (second first : BitVec 6)

@[simp] theorem opcode1_eWord : opcode1 (eWord imm field op) = op := BitVec.extractLsb'_append_eq_right

@[simp] theorem field4_eWord : field4 (eWord imm field op) = field :=
  (BitVec.extractLsb'_append_eq_of_le (by decide)).trans BitVec.extractLsb'_append_eq_right

@[simp] theorem imm8_eWord : imm8 (eWord imm field op) = imm :=
  (BitVec.extractLsb'_append_eq_of_le (by decide)).trans BitVec.extractLsb'_append_eq_left

@[simp] theorem opcode1_rxWord : opcode1 (rxWord e imm rx op) = op := by
  cases e <;> exact BitVec.extractLsb'_append_eq_right

@[simp] theorem rxField_rxWord : rxField e (rxWord e imm rx op) = rx := by
  cases e with
  | standard => exact field4_eWord imm rx op
  | swapped => exact (BitVec.extractLsb'_append_eq_of_le (by decide)).trans BitVec.extractLsb'_append_eq_left

@[simp] theorem rxImm8_rxWord : rxImm8 e (rxWord e imm rx op) = imm := by
  cases e with
  | standard => exact imm8_eWord imm rx op
  | swapped => exact (BitVec.extractLsb'_append_eq_of_le (by decide)).trans BitVec.extractLsb'_append_eq_right

@[simp] theorem opcode1_tWord : opcode1 (tWord t wide op) = op := by
  cases t; exact BitVec.extractLsb'_append_eq_right

@[simp] theorem imm12_tWord : imm12 t (tWord t wide op) = wide := by
  cases t; exact BitVec.extractLsb'_append_eq_left

@[simp] theorem opcode1_rWord : opcode1 (rWord r second first op) = op := by
  cases r <;> exact BitVec.extractLsb'_append_eq_right

@[simp] theorem firstField_rWord : firstField r (rWord r second first op) = first := by
  cases r with
  | standard => exact (BitVec.extractLsb'_append_eq_of_le (by decide)).trans BitVec.extractLsb'_append_eq_right
  | swapped => exact (BitVec.extractLsb'_append_eq_of_le (by decide)).trans BitVec.extractLsb'_append_eq_left

@[simp] theorem secondField_rWord : secondField r (rWord r second first op) = second := by
  cases r with
  | standard => exact (BitVec.extractLsb'_append_eq_of_le (by decide)).trans BitVec.extractLsb'_append_eq_left
  | swapped => exact (BitVec.extractLsb'_append_eq_of_le (by decide)).trans BitVec.extractLsb'_append_eq_right

end Fields

/-! ### A word from its fields -/

section Rebuild
variable (e : ETypeLayout) (t : TTypeLayout) (r : RTypeLayout) (iw : Word)

/-- Three adjoining fields that cover the word. -/
theorem append_three_fields {a b c : Nat} (hi : BitVec a) (mid : BitVec b) (lo : BitVec c) (h : a + b + c = 16)
    (hhi : hi = iw.extractLsb' (c + b) a) (hmid : mid = iw.extractLsb' c b) (hlo : lo = iw.extractLsb' 0 c) :
    (hi ++ mid ++ lo).cast h = iw := by
  subst hhi hmid hlo
  rw [BitVec.extractLsb'_append_extractLsb'_eq_extractLsb' rfl,
    BitVec.extractLsb'_append_extractLsb'_eq_extractLsb' (Nat.zero_add c).symm]
  apply BitVec.eq_of_getLsbD_eq
  intro k hk
  simp [hk]

theorem eWord_of_fields : eWord (imm8 iw) (field4 iw) (opcode1 iw) = iw :=
  append_three_fields iw (imm8 iw) (field4 iw) (opcode1 iw) rfl rfl rfl rfl

theorem rxWord_of_fields : rxWord e (rxImm8 e iw) (rxField e iw) (opcode1 iw) = iw := by
  cases e with
  | standard => exact eWord_of_fields iw
  | swapped => exact append_three_fields iw (iw.extractLsb' 12 4) (iw.extractLsb' 4 8) (opcode1 iw) rfl rfl rfl rfl

theorem tWord_of_fields : tWord t (imm12 t iw) (opcode1 iw) = iw := by
  cases t
  exact (BitVec.extractLsb'_append_extractLsb'_eq_extractLsb' rfl).trans BitVec.extractLsb'_eq_self

theorem rWord_of_fields : rWord r (secondField r iw) (firstField r iw) (opcode1 iw) = iw := by
  cases r <;> exact append_three_fields iw (upper6 iw) (lower6 iw) (opcode1 iw) rfl rfl rfl rfl

end Rebuild

end Sys2Proof.Encoding
end

section
/-! Decoding and encoding settled as each other's inverse (R82 to R92). -/

namespace Sys2Proof.Encoding

/-! ### Decoding after encoding -/

/-- The three forms of MOV are told apart again (R92). -/
theorem decodeMov_of_ne {d r : RegId} (hd : d ≠ RegId.pcId) (hr : r ≠ RegId.pcId) : decodeMov d r = .mov d r := by
  rw [decodeMov, if_neg hr, if_neg hd]

theorem decodeMov_pcId_right (d : RegId) : decodeMov d RegId.pcId = .movFromPc d := if_pos rfl

theorem decodeMov_pcId_left {r : RegId} (hr : r ≠ RegId.pcId) : decodeMov RegId.pcId r = .jmp r := by
  rw [decodeMov, if_neg hr, if_pos rfl]

/-- Settles O1: the fields of the word are the operands, and opcode1 and opcode2 select the row. -/
theorem decodeOfEncodeIsTheInstruction : Obligations.DecodeOfEncodeIsTheInstruction := by
  intro l i hi
  cases i with
  | mov d r =>
    obtain ⟨hd, hr⟩ : d ≠ RegId.pcId ∧ r ≠ RegId.pcId := by simpa [Instr.wellFormed] using hi
    simp [encode, decode, decodeMov_of_ne hd hr]
  | movFromPc d => simp [encode, decode, decodeMov_pcId_right]
  | jmp r =>
    have hr : r ≠ RegId.pcId := by simpa [Instr.wellFormed] using hi
    simp [encode, decode, decodeMov_pcId_left hr]
  | ldr | ldru | ldAtMptr | stAtMptr | ldbAtMptr | stbAtMptr => simp [encode, decode]
  | lda | ldmptr | ldmptru | sjmp | sjmpf => simp [encode, decode]
  | add | sub | sla | sra | sll | srl | and | or | xor | cl | cg | ce | adc | sbb | notf | slai | srai | slli | srli | ldau
  | pop | push | inc | dec => simp [encode, decode, decodeRType]
  | addi | andi | ori | xori | cli | cgi | cei | adci | sbbi => simp [encode, decode, decodeEType]

/-! ### Encoding after decoding -/

/-- A word with opcode1 = 1001 is the word of the form of MOV it is read as (R92; log 14). -/
theorem encode_decodeMov (l : Layouts) (d r : RegId) :
    encode l (decodeMov d r) = rWord l.rtypeLayout r d 0b1001#4 ∧ (decodeMov d r).wellFormed = true := by
  by_cases hr : r = RegId.pcId
  · subst hr
    rw [decodeMov_pcId_right]
    exact ⟨rfl, rfl⟩
  · by_cases hd : d = RegId.pcId
    · subst hd
      rw [decodeMov_pcId_left hr]
      exact ⟨rfl, by simpa [Instr.wellFormed] using hr⟩
    · rw [decodeMov_of_ne hd hr]
      exact ⟨rfl, by simpa [Instr.wellFormed] using ⟨hd, hr⟩⟩

/-- What an R-type opcode2 and third field decode to is encoded by them. -/
theorem encode_of_decodeRType {opcode2 third : BitVec 6} {i : Instr} (l : Layouts) (h : decodeRType opcode2 third = .ok i) :
    encode l i = rWord l.rtypeLayout third opcode2 0b1100#4 ∧ i.wellFormed = true := by
  unfold decodeRType at h
  split at h <;> cases h <;> exact ⟨rfl, rfl⟩

/-- What an E-type opcode2 and immediate decode to is encoded by them. -/
theorem encode_of_decodeEType {opcode2 : BitVec 4} {imm : BitVec 8} {i : Instr} (l : Layouts) (h : decodeEType opcode2 imm = .ok i) :
    encode l i = eWord imm opcode2 0b1101#4 ∧ i.wellFormed = true := by
  unfold decodeEType at h
  split at h <;> cases h <;> exact ⟨rfl, rfl⟩

/-- Settles O2: each row encodes the fields the decoder took from the word, and these make up the word. -/
theorem encodeOfDecodeIsTheWord : Obligations.EncodeOfDecodeIsTheWord := by
  intro l iw i h
  have hrx := rxWord_of_fields l.etypeLayout iw
  have ht := tWord_of_fields l.ttypeLayout iw
  have hr := rWord_of_fields l.rtypeLayout iw
  have he := eWord_of_fields iw
  unfold decode at h
  split at h
  case h_15 => cases h
  all_goals rename_i hop; rw [hop] at hrx ht hr he
  case h_10 =>
    cases h
    obtain ⟨hword, hwf⟩ := encode_decodeMov l (firstField l.rtypeLayout iw) (secondField l.rtypeLayout iw)
    exact ⟨hword.trans hr, hwf⟩
  case h_13 =>
    obtain ⟨hword, hwf⟩ := encode_of_decodeRType l h
    exact ⟨hword.trans hr, hwf⟩
  case h_14 =>
    obtain ⟨hword, hwf⟩ := encode_of_decodeEType l h
    exact ⟨hword.trans he, hwf⟩
  case h_7 | h_8 | h_9 | h_11 | h_12 => cases h; exact ⟨ht, rfl⟩
  all_goals cases h; exact ⟨hrx, rfl⟩

end Sys2Proof.Encoding
end

section
/-! The agreement of the decoder and the opcode table settled (R91, R92), and the words the decoder refuses (R94). -/

namespace Sys2Proof.Encoding

/-! ### Rows of the opcode table -/

/-- The word of every instruction is an element of its row. -/
theorem encode_mem_row (i : Instr) : Laws.EncodesToRow.Statement i := by
  cases i with
  | ldr | ldru | ldAtMptr | stAtMptr | ldbAtMptr | stbAtMptr => exact Laws.eWord_opcode1 _ _ _
  | lda | ldmptr | ldmptru | sjmp | sjmpf => exact Laws.tWord_opcode1 _ _
  | mov => exact Laws.rWord_opcode1 _ _ _
  | movFromPc => exact Laws.EncodesToRow.movFromPc _
  | addi | andi | ori | xori | cli | cgi | cei | adci | sbbi => exact Laws.eWord_row _ _ _
  | jmp | add | sub | sla | sra | sll | srl | and | or | xor | cl | cg | ce | adc | sbb | notf | slai | srai | slli | srli | ldau
  | pop | push | inc | dec => exact Laws.rWord_row _ _ _

/-- Two words that agree under a mask agree in each field the mask covers. -/
theorem extractLsb'_of_mask {iw w mask : Word} (start len : Nat) (h : iw &&& mask = w &&& mask)
    (hmask : mask.extractLsb' start len = BitVec.allOnes len) : iw.extractLsb' start len = w.extractLsb' start len := by
  have hfield := congrArg (BitVec.extractLsb' start len) h
  simpa only [BitVec.extractLsb'_and, hmask, BitVec.and_allOnes] using hfield

/-- Every row fixes opcode1. -/
theorem opcode1_row_mask (j : Instr) : j.row.mask.extractLsb' 0 4 = BitVec.allOnes 4 := by
  have hmask : j.row.mask = 0x000F#16 ∨ j.row.mask = 0x03FF#16 ∨ j.row.mask = 0x00FF#16 ∨ j.row.mask = 0xFC0F#16 := by
    cases j <;> simp [Instr.row, rowByOpcode1, rowRType, rowEType]
  rcases hmask with h | h | h | h <;> rw [h] <;> decide

/-- A word of some row decodes: opcode1, and opcode2 where the row names one, are those of any word of the row. -/
theorem decode_of_mem_row {iw : Word} (j : Instr) (h : iw &&& j.row.mask = j.row.pattern) : ∃ i, decode .standard iw = .ok i := by
  have hrow : iw &&& j.row.mask = encode .standard j &&& j.row.mask := h.trans (encode_mem_row j).symm
  have hop : opcode1 iw = opcode1 (encode .standard j) := extractLsb'_of_mask 0 4 hrow (opcode1_row_mask j)
  cases j with
  | ldr | ldru | ldAtMptr | stAtMptr | ldbAtMptr | stbAtMptr | lda | ldmptr | ldmptru | sjmp | sjmpf | mov | movFromPc | jmp =>
    simp [decode, hop, encode]
  | add | sub | sla | sra | sll | srl | and | or | xor | cl | cg | ce | adc | sbb | notf | slai | srai | slli | srli | ldau
  | pop | push | inc | dec =>
    have hop2 : firstField .standard iw = firstField .standard _ := extractLsb'_of_mask (mask := 0x03FF#16) 4 6 hrow (by decide)
    simp [decode, hop, hop2, encode, Layouts.standard, decodeRType]
  | addi | andi | ori | xori | cli | cgi | cei | adci | sbbi =>
    have hop2 : field4 iw = field4 _ := extractLsb'_of_mask (mask := 0x00FF#16) 4 4 hrow (by decide)
    simp [decode, hop, hop2, encode, decodeEType]

/-- Settles O3: a decoded word is the word of its instruction, which lies in its row; a word of a row has the row's opcodes. -/
theorem decoderAgreesWithTheOpcodeTable : Obligations.DecoderAgreesWithTheOpcodeTable := by
  intro iw
  have hrow : ∀ i, decode .standard iw = .ok i → iw &&& i.row.mask = i.row.pattern := by
    intro i h
    obtain ⟨hword, -⟩ := encodeOfDecodeIsTheWord _ _ _ h
    rw [← hword]
    exact encode_mem_row i
  exact ⟨hrow, fun ⟨i, h⟩ => ⟨i, hrow i h⟩, fun ⟨j, h⟩ => decode_of_mem_row j h⟩

/-! ### Words that are no instruction -/

/-- The opcode2 values no R-type row has (R94). -/
theorem decodeRType_error_iff (opcode2 third : BitVec 6) :
    (∃ e, decodeRType opcode2 third = .error e) ↔
      opcode2.toNat = 0 ∨ opcode2.toNat = 15 ∨ (17 ≤ opcode2.toNat ∧ opcode2.toNat ≤ 34) ∨
        (39 ≤ opcode2.toNat ∧ opcode2.toNat ≤ 58) := by
  have hlt := opcode2.isLt
  unfold decodeRType
  split
  case h_25 =>
    simp only [Except.error.injEq, exists_eq', true_iff]
    simp only [imp_false, ← BitVec.toNat_inj, BitVec.toNat_ofNat] at *
    omega
  all_goals simp

/-- The opcode2 values no E-type row has (R94). -/
theorem decodeEType_error_iff (opcode2 : BitVec 4) (imm : BitVec 8) :
    (∃ e, decodeEType opcode2 imm = .error e) ↔
      opcode2.toNat = 0 ∨ (2 ≤ opcode2.toNat ∧ opcode2.toNat ≤ 6) ∨ opcode2.toNat = 15 := by
  have hlt := opcode2.isLt
  unfold decodeEType
  split
  case h_10 =>
    simp only [Except.error.injEq, exists_eq', true_iff]
    simp only [imp_false, ← BitVec.toNat_inj, BitVec.toNat_ofNat] at *
    omega
  all_goals simp

/-- Where a word is refused: at opcode1, or at the opcode2 that opcode1 sends it to. -/
theorem decode_error_iff (l : Layouts) (iw : Word) :
    (∃ e, decode l iw = .error e) ↔
      (opcode1 iw).toNat = 14 ∨ (opcode1 iw).toNat = 15 ∨
      ((opcode1 iw).toNat = 12 ∧ ∃ e, decodeRType (firstField l.rtypeLayout iw) (secondField l.rtypeLayout iw) = .error e) ∨
      ((opcode1 iw).toNat = 13 ∧ ∃ e, decodeEType (field4 iw) (imm8 iw) = .error e) := by
  have hlt := (opcode1 iw).isLt
  unfold decode
  split
  case h_15 =>
    simp only [Except.error.injEq, exists_eq', true_iff]
    simp only [imp_false, ← BitVec.toNat_inj, BitVec.toNat_ofNat] at *
    omega
  all_goals rename_i hop; simp [hop]

/-- Settles O4: the fields of the word as numbers. -/
theorem unassignedWordsAreThoseOfTheTable : Obligations.UnassignedWordsAreThoseOfTheTable := by
  intro l iw op1 op2 op2e hop1 hop2 hop2e
  have hfirst : (firstField l.rtypeLayout iw).toNat = op2 := by
    have hlt := iw.isLt
    rw [hop2]
    cases l.rtypeLayout <;> simp only [firstField, lower6, upper6, BitVec.extractLsb'_toNat, Nat.shiftRight_eq_div_pow]
    omega
  have hfield4 : (field4 iw).toNat = op2e := by
    rw [hop2e, field4, BitVec.extractLsb'_toNat, Nat.shiftRight_eq_div_pow]
  have hopcode1 : (opcode1 iw).toNat = op1 := by
    rw [hop1, opcode1, BitVec.extractLsb'_toNat, Nat.shiftRight_zero]
  rw [decode_error_iff, decodeRType_error_iff, decodeEType_error_iff, hfirst, hfield4, hopcode1]

/-- Settles O5. -/
theorem wordsOfTheSpecDecode : Obligations.WordsOfTheSpecDecode :=
  ⟨rfl, rfl, rfl, rfl, rfl, rfl, rfl, rfl, rfl, rfl⟩

end Sys2Proof.Encoding
end

section
/-! SUPPORT. What each shared operation answers where its condition is known: operands, memory accesses, stores and WrittenSet. -/

namespace Sys2Proof.Access

open Sys2Proof.Machine

/-! ### Continuations -/

section Continue
variable {α : Type} {s : State} {cls : RegClass} {id : RegId} {v : Word}

theorem withOperand_of_read (h : s.readId cls id = some v) (k : Word → Result) : s.withOperand cls id k = k v := by
  rw [State.withOperand, h]

theorem withOperand_of_none (h : s.readId cls id = none) (k : Word → Result) :
    s.withOperand cls id k = .refused (.reservedRegisterId id) := by
  rw [State.withOperand, h]

theorem onMemory_ok {x : Except Fault α} {a : α} (h : x = .ok a) (k : α → Result) : onMemory x k = k a := by
  rw [h, onMemory]

theorem onMemory_error {x : Except Fault α} {f : Fault} (h : x = .error f) (k : α → Result) : onMemory x k = .fault f := by
  rw [h, onMemory]

end Continue

/-! ### Data accesses (R54 to R56) -/

section DataAccess
variable {s : State} {a : Word}

/-- The checks of a 2-byte access before it looks for unwritten bytes, in their order (R56). -/
theorem check_two_eq (s : State) (a : Word) :
    s.check a .two =
      if isOdd a = true ∧ s.params.misaligned = .refuse then some (.misalignedAccess a)
      else if s.params.memSize ≤ a.toNat then some (.unpopulatedAddress a)
      else if s.params.memSize ≤ (a + 1#16).toNat then some (.unpopulatedAddress (a + 1#16))
      else none := by
  by_cases h0 : s.params.memSize ≤ a.toNat <;> by_cases h1 : s.params.memSize ≤ (a + 1#16).toNat <;>
    simp [State.check, State.firstUnpopulated, touched, List.find?, h0, h1, -BitVec.toNat_add]

theorem memRead1_of_admits {b : Byte} (h : s.admits a .one) (hb : s.byteAt a = some b) : s.memRead1 a = .ok b :=
  (memRead1_ok_iff s a b).2 ⟨(admits_iff s a .one).1 h, hb⟩

theorem memRead2_of_admits {lo hi : Byte} (h : s.admits a .two) (hlo : s.byteAt a = some lo)
    (hhi : s.byteAt (a + 1#16) = some hi) : s.memRead2 a = .ok (hi ++ lo) := by
  refine (memRead2_ok_iff s a (wordOfBytes lo hi)).2 ⟨(admits_iff s a .two).1 h, ?_, ?_⟩
  · rw [lowByte_wordOfBytes, hlo]
  · rw [highByte_wordOfBytes, hhi]

theorem memWrite1_of_admits (h : s.admits a .one) (b : Byte) : s.memWrite1 a b = .ok (s.storeByte a b) :=
  (memWrite1_ok_iff s _ a b).2 ⟨(admits_iff s a .one).1 h, rfl⟩

theorem memWrite2_of_admits (h : s.admits a .two) (v : Word) : s.memWrite2 a v = .ok (s.storeWord a v) :=
  (memWrite2_ok_iff s _ a v).2 ⟨(admits_iff s a .two).1 h, rfl⟩

section Stopped
variable {f : Fault}

theorem memRead2_of_check (h : s.check a .two = some f) : s.memRead2 a = .error f := by rw [State.memRead2, h]

theorem memWrite2_of_check (h : s.check a .two = some f) (v : Word) : s.memWrite2 a v = .error f := by
  rw [State.memWrite2, h]

/-- A write is stopped whatever it was to write (R56). -/
theorem memWrite2_error_congr {v : Word} (h : s.memWrite2 a v = .error f) (w : Word) : s.memWrite2 a w = .error f := by
  unfold State.memWrite2 at h ⊢
  cases hc : s.check a .two with
  | none => rw [hc] at h; cases h
  | some g => rw [hc] at h; exact h

theorem memWrite1_error_congr {b : Byte} (h : s.memWrite1 a b = .error f) (c : Byte) : s.memWrite1 a c = .error f := by
  unfold State.memWrite1 at h ⊢
  cases hc : s.check a .one with
  | none => rw [hc] at h; cases h
  | some g => rw [hc] at h; exact h
end Stopped

theorem readWritten_of_none (h : s.byteAt a = none) : s.readWritten a = .error (.unwrittenRead a) := by
  rw [State.readWritten, h]

theorem readWritten_of_some {b : Byte} (h : s.byteAt a = some b) : s.readWritten a = .ok b := by
  rw [State.readWritten, h]

end DataAccess

/-! ### Stores -/

section Store
variable (s : State) (a : Word)

/-- Which addresses WrittenSet holds after a 1-byte store (R55, R62). -/
theorem mem_writtenSet_storeByte (v : Byte) (b : Nat) :
    b ∈ (s.storeByte a v).writtenSet ↔
      b ∈ s.writtenSet ∨ (s.params.fetchCoherence = .refuseWritten ∧ b = a.toNat) := by
  rw [storeByte_writtenSet, noteWritten_writtenSet]
  cases s.params.fetchCoherence <;> simp [mem_addAddress, or_comm]

/-- Which addresses WrittenSet holds after a 2-byte store (R55, R62). -/
theorem mem_writtenSet_storeWord (v : Word) (b : Nat) :
    b ∈ (s.storeWord a v).writtenSet ↔
      b ∈ s.writtenSet ∨ (s.params.fetchCoherence = .refuseWritten ∧ (b = a.toNat ∨ b = (a + 1#16).toNat)) := by
  rw [State.storeWord, mem_writtenSet_storeByte, mem_writtenSet_storeByte, storeByte_params]
  tauto

theorem read_storeByte_of_ne (v : Byte) {b : Nat} (h : b ≠ a.toNat) : (s.storeByte a v).mem.read b = s.mem.read b := by
  rw [storeByte_mem, read_write, if_neg h]

theorem read_storeWord_of_ne (v : Word) {b : Nat} (h : b ≠ a.toNat) (h' : b ≠ (a + 1#16).toNat) :
    (s.storeWord a v).mem.read b = s.mem.read b := by
  rw [State.storeWord, read_storeByte_of_ne _ _ _ h', read_storeByte_of_ne _ _ _ h]

/-- A store changes memory and WrittenSet alone. -/
theorem storeByte_eq (v : Byte) :
    s.storeByte a v = { s with mem := (s.storeByte a v).mem, writtenSet := (s.storeByte a v).writtenSet } := by
  rw [State.storeByte, noteWritten_eq]

theorem storeWord_eq (v : Word) :
    s.storeWord a v = { s with mem := (s.storeWord a v).mem, writtenSet := (s.storeWord a v).writtenSet } := by
  rw [State.storeWord, storeByte_eq, storeByte_eq s a]

theorem byteAt_storeByte_same (v : Byte) : (s.storeByte a v).byteAt a = some v := by rw [byteAt_storeByte, if_pos rfl]

theorem byteAt_storeWord_low (v : Word) : (s.storeWord a v).byteAt a = some (lowByte v) := by
  rw [byteAt_storeWord, if_pos rfl]

theorem succ_ne_self : a + 1#16 ≠ a := fun h => succ_ne a (congrArg BitVec.toNat h)

theorem byteAt_storeWord_high (v : Word) : (s.storeWord a v).byteAt (a + 1#16) = some (highByte v) := by
  rw [byteAt_storeWord, if_neg (succ_ne_self a), if_pos rfl]

end Store

/-- Whether an access passes its checks depends on the parameters alone (R56). -/
theorem admits_congr {s t : State} (h : t.params = s.params) {a : Word} {n : Width} (hs : s.admits a n) : t.admits a n := by
  unfold State.admits
  rwa [h]

/-- Each byte of an access that is allowed may be accessed by itself (R56). -/
theorem admits_one_of_touched {s : State} {a b : Word} {n : Width} (h : s.admits a n) (hb : b ∈ touched a n) :
    s.admits b .one := by
  refine ⟨nofun, fun c hc => ?_⟩
  rw [touched, List.mem_singleton] at hc
  exact hc ▸ h.2 b hb

end Sys2Proof.Access
end

section
/-! The statements about the access primitives and the fetch settled (R53 to R57). -/

namespace Sys2Proof.Access

open Sys2Proof.Machine

/-- Settles O27. -/
theorem memReadGivesTheBytes : Obligations.MemReadGivesTheBytes :=
  fun _ _ _ _ hlo => ⟨fun h => memRead1_of_admits h hlo, fun h hhi => memRead2_of_admits h hlo hhi⟩

/-- Settles O28: both writes are stores. -/
theorem memWriteChangesTheNamedBytes : Obligations.MemWriteChangesTheNamedBytes := by
  intro s a v
  constructor
  · intro h
    exact ⟨_, memWrite1_of_admits h _, byteAt_storeByte_same s a _, fun _ => read_storeByte_of_ne s a _,
      storeByte_eq s a _, mem_writtenSet_storeByte s a _⟩
  · intro h
    exact ⟨_, memWrite2_of_admits h v, byteAt_storeWord_low s a v, byteAt_storeWord_high s a v,
      fun _ => read_storeWord_of_ne s a v, storeWord_eq s a v, mem_writtenSet_storeWord s a v⟩

/-- Settles O29: the reads see the bytes the stores left. -/
theorem mixedWidthAccessesSeeTheBytes : Obligations.MixedWidthAccessesSeeTheBytes := by
  intro s a v b0 b1 h
  have hlow : s.admits a .one := admits_one_of_touched h (by simp [touched])
  have hhigh : s.admits (a + 1#16) .one := admits_one_of_touched h (by simp [touched])
  constructor
  · have hparams := storeWord_params s a v
    refine ⟨_, memWrite2_of_admits h v, memRead1_of_admits (admits_congr hparams hlow) (byteAt_storeWord_low s a v),
      memRead1_of_admits (admits_congr hparams hhigh) (byteAt_storeWord_high s a v), ?_⟩
    rw [memRead2_of_admits (admits_congr hparams h) (byteAt_storeWord_low s a v) (byteAt_storeWord_high s a v)]
    exact congrArg Except.ok (wordOfBytes_lowByte_highByte v)
  · have hparams := storeByte_params s a b0
    refine ⟨_, _, memWrite1_of_admits hlow b0, memWrite1_of_admits (admits_congr hparams hhigh) b1, ?_⟩
    refine memRead2_of_admits (admits_congr ((storeByte_params _ _ b1).trans hparams) h) ?_ (byteAt_storeByte_same _ _ b1)
    rw [byteAt_storeByte, if_neg (succ_ne_self a).symm, byteAt_storeByte_same]

/-- Settles O30: the checks in the order of `check_two_eq`, then the two reads. -/
theorem accessChecksInOrder : Obligations.AccessChecksInOrder := by
  intro s a v
  have hcheck := check_two_eq s a
  refine ⟨fun hodd href => ?_, fun halign => ?_⟩
  · rw [if_pos ⟨hodd, href⟩] at hcheck
    exact ⟨memRead2_of_check hcheck, memWrite2_of_check hcheck v⟩
  have haligned : ¬ (isOdd a = true ∧ s.params.misaligned = .refuse) := by
    rintro ⟨hodd, href⟩
    rw [halign hodd] at href
    cases href
  rw [if_neg haligned] at hcheck
  refine ⟨fun h0 => ?_, fun h0 h1 => ?_, fun h0 h1 => ?_⟩
  · rw [if_pos h0] at hcheck
    exact ⟨memRead2_of_check hcheck, memWrite2_of_check hcheck v⟩
  · rw [if_neg (by omega), if_pos h1] at hcheck
    exact ⟨memRead2_of_check hcheck, memWrite2_of_check hcheck v⟩
  · rw [if_neg (by omega), if_neg (by omega)] at hcheck
    refine ⟨fun hlo => ?_, fun hlo hhi => ?_⟩
    · simp only [State.memRead2, hcheck, readWritten_of_none hlo]
    · obtain ⟨lo, hlo⟩ := Option.isSome_iff_exists.1 hlo
      simp only [State.memRead2, hcheck, readWritten_of_some hlo, readWritten_of_none hhi]

/-! ### Fetch (R57) -/

section Fetch
variable {s : State} {a : Word}

theorem fetchByte_unpopulated (h : s.params.memSize ≤ a.toNat) : s.fetchByte a = .error (.unpopulatedAddress a) := if_pos h

theorem fetchByte_unwritten (h : a.toNat < s.params.memSize) (hb : s.byteAt a = none) :
    s.fetchByte a = .error (.unwrittenRead a) := by
  rw [State.fetchByte, if_neg (by omega), hb]

theorem fetchByte_stored {b : Byte} (h : a.toNat < s.params.memSize) (hb : s.byteAt a = some b)
    (hfc : s.params.fetchCoherence = .refuseWritten) (hw : a.toNat ∈ s.writtenSet) :
    s.fetchByte a = .error (.fetchOfWrittenByte a) := by
  rw [State.fetchByte, if_neg (by omega), hb]
  exact if_pos ⟨hfc, hw⟩

theorem fetchByte_fetched {b : Byte} (h : a.toNat < s.params.memSize) (hb : s.byteAt a = some b)
    (hw : s.params.fetchCoherence = .coherent ∨ a.toNat ∉ s.writtenSet) : s.fetchByte a = .ok b := by
  refine (fetchByte_ok_iff s a b).2 ⟨h, hb, ?_⟩
  rintro ⟨hfc, hmem⟩
  rcases hw with hc | hn
  · rw [hfc] at hc; cases hc
  · exact hn hmem

/-- Where alignment does not stop the fetch, it is the two byte fetches in turn (R57). -/
theorem fetch_of_aligned (h : isOdd s.pc = true → s.params.misaligned = .split) :
    s.fetch = (do let lo ← s.fetchByte s.pc; let hi ← s.fetchByte (s.pc + 1#16); return wordOfBytes lo hi) := by
  have haligned : ¬ (isOdd s.pc = true ∧ s.params.misaligned = .refuse) := by
    rintro ⟨hodd, href⟩
    rw [h hodd] at href
    cases href
  rw [State.fetch, if_neg haligned]
  cases s.fetchByte s.pc with
  | error f => rfl
  | ok lo => cases s.fetchByte (s.pc + 1#16) <;> rfl

theorem fetch_of_first_stop {f : Fault} (h : isOdd s.pc = true → s.params.misaligned = .split)
    (h0 : s.fetchByte s.pc = .error f) : s.fetch = .error f := by
  rw [fetch_of_aligned h, h0]; rfl

theorem fetch_of_second_stop {lo : Byte} {f : Fault} (h : isOdd s.pc = true → s.params.misaligned = .split)
    (h0 : s.fetchByte s.pc = .ok lo) (h1 : s.fetchByte (s.pc + 1#16) = .error f) : s.fetch = .error f := by
  rw [fetch_of_aligned h, h0, h1]; rfl

theorem fetch_of_bytes {lo hi : Byte} (h : isOdd s.pc = true → s.params.misaligned = .split)
    (h0 : s.fetchByte s.pc = .ok lo) (h1 : s.fetchByte (s.pc + 1#16) = .ok hi) : s.fetch = .ok (wordOfBytes lo hi) := by
  rw [fetch_of_aligned h, h0, h1]; rfl

end Fetch

/-- Settles O32: the stop or the byte of each of the two byte fetches. -/
theorem fetchGivesTheWordOrItsStop : Obligations.FetchGivesTheWordOrItsStop := by
  intro s lo hi
  refine ⟨fun hodd href => if_pos ⟨hodd, href⟩, fun halign => ⟨fun h => ?_, fun h hb => ?_, fun h hb hfc hw => ?_, ?_⟩⟩
  · exact fetch_of_first_stop halign (fetchByte_unpopulated h)
  · exact fetch_of_first_stop halign (fetchByte_unwritten h hb)
  · exact fetch_of_first_stop halign (fetchByte_stored h hb hfc hw)
  · intro h hb hw
    have hlo := fetchByte_fetched h hb hw
    refine ⟨fun h1 => ?_, fun h1 hb1 => ?_, fun h1 hb1 hfc1 hw1 => ?_, fun h1 hb1 hw1 => ?_⟩
    · exact fetch_of_second_stop halign hlo (fetchByte_unpopulated h1)
    · exact fetch_of_second_stop halign hlo (fetchByte_unwritten h1 hb1)
    · exact fetch_of_second_stop halign hlo (fetchByte_stored h1 hb1 hfc1 hw1)
    · exact fetch_of_bytes halign hlo (fetchByte_fetched h1 hb1 hw1)

/-! ### Steps (R13) -/

section Step
variable {s : State}

theorem step_of_fetch_stop {f : Fault} (h : s.fetch = .error f) : step s = .fault f := onMemory_error h _

theorem step_of_decode_ok {iw : Word} {i : Instr} (h : s.fetch = .ok iw) (hd : decode s.params.toLayouts iw = .ok i) :
    step s = exec i s := by
  rw [step, onMemory_ok h, hd]

theorem step_of_decode_error {iw : Word} {e : DecodeError} (h : s.fetch = .ok iw)
    (hd : decode s.params.toLayouts iw = .error e) : step s = .refused (.reservedEncoding iw) := by
  rw [step, onMemory_ok h, hd]

end Step

/-- Settles O33. -/
theorem aStepRunsTheDecodedInstruction : Obligations.AStepRunsTheDecodedInstruction :=
  fun _ _ _ _ _ => ⟨step_of_decode_ok, step_of_decode_error, step_of_fetch_stop⟩

end Sys2Proof.Access
end

section
/-! SUPPORT. What an instruction that answers next has done: one lemma over `exec`, from which the rules over all instructions
follow field by field of the state. -/

namespace Sys2Proof.Effects

open Sys2Proof.Machine

/-! ### Groups of instructions by what they write -/

/-- The instructions that write A and nothing else but pc (R116, R119, R153 to R159, R174 to R180). -/
def isAccOp : Instr → Bool
  | .lda _ | .ldau _ | .andi _ | .ori _ | .xori _ | .slai _ | .srai _ | .slli _ | .srli _ => true
  | .and _ | .or _ | .xor _ | .sla _ | .sra _ | .sll _ | .srl _ => true
  | _ => false

/-- The seven add and subtract instructions, which write A and carry (R29). -/
def isAddSub : Instr → Bool
  | .addi _ | .adci _ | .sbbi _ | .add _ | .adc _ | .sub _ | .sbb _ => true
  | _ => false

/-- The six compares and NOTF, which write flag (R28). -/
def isFlagOp : Instr → Bool
  | .cli _ | .cgi _ | .cei _ | .cl _ | .cg _ | .ce _ | .notf _ => true
  | _ => false

/-- The instruction puts a value in the register an ID names, MOV's PC forms among them (R130 to R132). -/
inductive Moves (s : State) : Instr → RegId → Word → Prop
  | mov {d r : RegId} {v : Word} (h : s.readId .mov r = some v) : Moves s (.mov d r) d v
  | fromPc {d : RegId} : Moves s (.movFromPc d) d (s.pc + 4#16)
  | jmp {r : RegId} {v : Word} (h : s.readId .mov r = some v) : Moves s (.jmp r) RegId.pcId v

/-- The state `t` that instruction `i` leaves from state `s`, in the ways an instruction can answer next. -/
inductive Effect (s : State) : Instr → State → Prop
  | loadImm {rx : BitVec 4} {imm : BitVec 8} {i : Instr} (hi : i = .ldr rx imm ∨ i = .ldru rx imm) (v : Word) :
      Effect s i (s.setR (etypeReg rx) v).advance
  | loadAtMptr {rx : BitVec 4} {imm : BitVec 8} {i : Instr} (hi : i = .ldAtMptr rx imm ∨ i = .ldbAtMptr rx imm) (v : Word) :
      Effect s i ((s.setR (etypeReg rx) v).bumpMptr imm)
  | storeWordAtMptr {rx : BitVec 4} {imm : BitVec 8} (h : s.admits s.mptr .two) (v : Word) :
      Effect s (.stAtMptr rx imm) ((s.storeWord s.mptr v).bumpMptr imm)
  | storeByteAtMptr {rx : BitVec 4} {imm : BitVec 8} (h : s.admits s.mptr .one) (b : Byte) :
      Effect s (.stbAtMptr rx imm) ((s.storeByte s.mptr b).bumpMptr imm)
  | pop {r : RegId} (hr : r.toNat < 32) (v : Word) :
      Effect s (.pop r) ({ s with sp := s.sp + 2#16 }.setR (gprOfId r) v).advance
  | push {r : RegId} (h : s.admits s.pushAddr .two) (v : Word) :
      Effect s (.push r) { s.storeWord s.pushAddr v with sp := s.pushAddr }.advance
  | stepReg {r : RegId} {i : Instr} (hi : i = .inc r ∨ i = .dec r) (hr : r.toNat < 32) (v : Word) :
      Effect s i (s.setR (gprOfId r) v).advance
  | move {i : Instr} {d : RegId} {v : Word} {t : State} (hi : Moves s i d v) (h : s.writeId .mov d v = some t) : Effect s i t
  | branch {off : BitVec 12} {i : Instr} (hi : i = .sjmp off ∨ (i = .sjmpf off ∧ s.flag = true)) :
      Effect s i { s with pc := s.branchTarget off }
  | fallThrough {off : BitVec 12} : Effect s (.sjmpf off) s.advance
  | loadMptr {imm : BitVec 12} {i : Instr} (hi : i = .ldmptr imm ∨ i = .ldmptru imm) (v : Word) :
      Effect s i { s with mptr := v }.advance
  | acc {i : Instr} (hi : isAccOp i = true) (v : Word) : Effect s i { s with acc := v }.advance
  | accCarry {i : Instr} {u : State} (hi : isAddSub i = true) (hu : u = s ∨ u = s.carryIn.2) (v : Word) (c : Bool) :
      Effect s i ({ u with acc := v }.setCarry c).advance
  | flag {i : Instr} (hi : isFlagOp i = true) (b : Bool) : Effect s i { s with flag := b }.advance

section
variable {s t : State}

/-- The stack class reads R0 to R31 alone (R34). -/
theorem toNat_lt_of_readId_stack {r : RegId} {v : Word} (h : s.readId .stack r = some v) : r.toNat < 32 := by
  by_contra hr
  simp [State.readId, hr, RegClass.allowsSpecial] at h

theorem moveRegister_next {d r : RegId} (h : s.moveRegister d r = .next t) :
    ∃ v, s.readId .mov r = some v ∧ s.writeId .mov d v = some t := by
  obtain ⟨v, hv, hk⟩ := (withOperand_next_iff s .mov r _ t).1 h
  exact ⟨v, hv, (intoRegister_next_iff s t .mov d v).1 hk⟩

/-- Every instruction that answers next does so in one of the ways of `Effect`. -/
theorem effect_of_exec {i : Instr} (h : exec i s = .next t) : Effect s i t := by
  cases i with
  | ldr rx imm => cases h; exact .loadImm (.inl rfl) _
  | ldru rx imm => cases h; exact .loadImm (.inr rfl) _
  | ldAtMptr rx imm =>
    obtain ⟨v, -, hk⟩ := (onMemory_next_iff _ _ _).1 h
    cases hk; exact .loadAtMptr (.inl rfl) _
  | ldbAtMptr rx imm =>
    obtain ⟨v, -, hk⟩ := (onMemory_next_iff _ _ _).1 h
    cases hk; exact .loadAtMptr (.inr rfl) _
  | stAtMptr rx imm =>
    obtain ⟨u, hu, hk⟩ := (onMemory_next_iff _ _ _).1 h
    obtain ⟨hcheck, rfl⟩ := (memWrite2_ok_iff _ _ _ _).1 hu
    cases hk; exact .storeWordAtMptr ((admits_iff _ _ _).2 hcheck) _
  | stbAtMptr rx imm =>
    obtain ⟨u, hu, hk⟩ := (onMemory_next_iff _ _ _).1 h
    obtain ⟨hcheck, rfl⟩ := (memWrite1_ok_iff _ _ _ _).1 hu
    cases hk; exact .storeByteAtMptr ((admits_iff _ _ _).2 hcheck) _
  | pop r =>
    obtain ⟨w, hw, hk⟩ := (withOperand_next_iff _ _ _ _ _).1 h
    obtain ⟨v, -, hinto⟩ := (onMemory_next_iff _ _ _).1 hk
    have hr := toNat_lt_of_readId_stack hw
    rw [GprReach.intoRegister_gpr _ _ _ hr] at hinto
    cases hinto; exact .pop hr v
  | push r =>
    obtain ⟨w, -, hk⟩ := (withOperand_next_iff _ _ _ _ _).1 h
    obtain ⟨u, hu, hinto⟩ := (onMemory_next_iff _ _ _).1 hk
    obtain ⟨hcheck, rfl⟩ := (memWrite2_ok_iff _ _ _ _).1 hu
    cases hinto; exact .push ((admits_iff _ _ _).2 hcheck) _
  | inc r =>
    obtain ⟨w, hw, hk⟩ := (withOperand_next_iff _ _ _ _ _).1 h
    have hr := toNat_lt_of_readId_stack hw
    rw [GprReach.intoRegister_gpr _ _ _ hr] at hk
    cases hk; exact .stepReg (.inl rfl) hr _
  | dec r =>
    obtain ⟨w, hw, hk⟩ := (withOperand_next_iff _ _ _ _ _).1 h
    have hr := toNat_lt_of_readId_stack hw
    rw [GprReach.intoRegister_gpr _ _ _ hr] at hk
    cases hk; exact .stepReg (.inr rfl) hr _
  | mov d r =>
    obtain ⟨v, hv, hw⟩ := moveRegister_next h
    exact .move (.mov hv) hw
  | movFromPc d =>
    obtain ⟨v, hv, hw⟩ := moveRegister_next (d := d) (r := RegId.pcId) h
    obtain rfl : s.pc + 4#16 = v := Option.some.inj hv
    exact .move .fromPc hw
  | jmp r =>
    obtain ⟨v, hv, hw⟩ := moveRegister_next h
    exact .move (.jmp hv) hw
  | sjmp off => cases h; exact .branch (.inl rfl)
  | sjmpf off =>
    simp only [exec, execSjmpf] at h
    split at h <;> cases h
    · exact .branch (.inr ⟨rfl, ‹_›⟩)
    · exact .fallThrough
  | ldmptr imm => cases h; exact .loadMptr (.inl rfl) _
  | ldmptru imm => cases h; exact .loadMptr (.inr rfl) _
  | lda | ldau | andi | ori | xori | slai | srai | slli | srli => cases h; exact .acc rfl _
  | and | or | xor | sla | sra | sll | srl =>
    obtain ⟨b, -, hk⟩ := (withOperand_next_iff _ _ _ _ _).1 h
    cases hk; exact .acc rfl _
  | addi => cases h; exact .accCarry rfl (.inl rfl) _ _
  | adci | sbbi => cases h; exact .accCarry rfl (.inr rfl) _ _
  | add | sub =>
    obtain ⟨b, -, hk⟩ := (withOperand_next_iff _ _ _ _ _).1 h
    cases hk; exact .accCarry rfl (.inl rfl) _ _
  | adc | sbb =>
    obtain ⟨b, -, hk⟩ := (withOperand_next_iff _ _ _ _ _).1 h
    cases hk; exact .accCarry rfl (.inr rfl) _ _
  | cli | cgi | cei | notf => cases h; exact .flag rfl _
  | cl | cg | ce =>
    obtain ⟨b, -, hk⟩ := (withOperand_next_iff _ _ _ _ _).1 h
    cases hk; exact .flag rfl _
end

end Sys2Proof.Effects
end

section
/-! SUPPORT. The fields an instruction changes, read off `Effect` one field at a time, and the rules over all instructions they settle. -/

namespace Sys2Proof.Effects

open Sys2Proof.Machine Sys2Proof.Access

section Fields
variable {s t : State} {i : Instr}

/-! ### Parameters, flag, carry, the counter of free bits -/

/-- A write by ID leaves everything but the registers and pc. -/
theorem writeId_frame {cls : RegClass} {d : RegId} {v : Word} (h : s.writeId cls d v = some t) :
    t = { s with gpr := t.gpr, acc := t.acc, mptr := t.mptr, sp := t.sp, pc := t.pc } := by
  rcases writeId_cases h with ⟨-, rfl⟩ | ⟨-, -, rfl⟩ | ⟨-, -, rfl⟩ | ⟨-, -, rfl⟩ | ⟨-, -, rfl⟩ <;> rfl

theorem Effect.params (h : Effect s i t) : t.params = s.params := by
  cases h with
  | move hi hw => rw [writeId_frame hw]
  | accCarry hi hu v c => rcases hu with rfl | rfl <;> simp
  | _ => simp

theorem Effect.flag_cases (h : Effect s i t) : t.flag = s.flag ∨ isFlagOp i = true := by
  cases h with
  | flag hi b => exact .inr hi
  | move hi hw => left; rw [writeId_frame hw]
  | accCarry hi hu v c => left; rcases hu with rfl | rfl <;> simp
  | _ => left; simp

theorem Effect.carry_cases (h : Effect s i t) :
    t.carry = s.carry ∨ (s.params.carryModel = .separate ∧ isAddSub i = true) := by
  cases h with
  | accCarry hi hu v c =>
    by_cases hcm : s.params.carryModel = .separate
    · exact .inr ⟨hcm, hi⟩
    · left; rcases hu with rfl | rfl <;> simp [setCarry_carry, hcm]
  | move hi hw => left; rw [writeId_frame hw]
  | _ => left; simp

theorem Effect.draws_cases (h : Effect s i t) : t.draws = s.draws ∨ s.params.carryModel = .draw := by
  cases h with
  | accCarry hi hu v c =>
    rcases hu with rfl | rfl
    · left; simp
    · by_cases hcm : s.params.carryModel = .draw
      · exact .inr hcm
      · left; simp [carryIn_draws, hcm]
  | move hi hw => left; rw [writeId_frame hw]
  | _ => left; simp

/-! ### Memory and WrittenSet -/

/-- The instructions that write A, carry or flag make no data access (R58). -/
theorem dataAccess_of_isAccOp (s : State) (h : isAccOp i = true) : dataAccess i s = .none := by
  cases i with
  | lda | ldau | andi | ori | xori | slai | srai | slli | srli | and | or | xor | sla | sra | sll | srl => rfl
  | _ => cases h

theorem dataAccess_of_isAddSub (s : State) (h : isAddSub i = true) : dataAccess i s = .none := by
  cases i with
  | addi | adci | sbbi | add | adc | sub | sbb => rfl
  | _ => cases h

theorem dataAccess_of_isFlagOp (s : State) (h : isFlagOp i = true) : dataAccess i s = .none := by
  cases i with
  | cli | cgi | cei | cl | cg | ce | notf => rfl
  | _ => cases h

/-- Two states hold the same memory and the same WrittenSet. -/
def SameMemory (t u : State) : Prop := t.mem = u.mem ∧ t.writtenSet = u.writtenSet

/-- What has happened to memory, by the data access an instruction made (R58): nothing without a store, else that store. -/
inductive MemoryEffect (s t : State) (access : DataAccess) : Prop
  | unchanged (hnone : access.storedTo = []) (h : SameMemory t s)
  | storedByte {a : Word} (hstore : access = .store a .one) (hadm : s.admits a .one) (b : Byte)
      (h : SameMemory t (s.storeByte a b))
  | storedWord {a : Word} (hstore : access = .store a .two) (hadm : s.admits a .two) (v : Word)
      (h : SameMemory t (s.storeWord a v))

theorem storedTo_of_eq_none {a : DataAccess} (h : a = .none) : a.storedTo = [] := by rw [h, DataAccess.storedTo]

theorem Effect.memory (h : Effect s i t) : MemoryEffect s t (dataAccess i s) := by
  cases h with
  | storeWordAtMptr h v => exact .storedWord rfl h v ⟨rfl, rfl⟩
  | storeByteAtMptr h b => exact .storedByte rfl h b ⟨rfl, rfl⟩
  | push h v => exact .storedWord rfl h v ⟨rfl, rfl⟩
  | loadImm hi v | loadAtMptr hi v | loadMptr hi v => rcases hi with rfl | rfl <;> exact .unchanged rfl ⟨rfl, rfl⟩
  | stepReg hi hr v => rcases hi with rfl | rfl <;> exact .unchanged rfl ⟨rfl, rfl⟩
  | branch hi => rcases hi with rfl | ⟨rfl, -⟩ <;> exact .unchanged rfl ⟨rfl, rfl⟩
  | pop hr v | fallThrough => exact .unchanged rfl ⟨rfl, rfl⟩
  | move hi hw =>
    rw [writeId_frame hw]
    cases hi <;> exact .unchanged rfl ⟨rfl, rfl⟩
  | acc hi v => exact .unchanged (storedTo_of_eq_none (dataAccess_of_isAccOp s hi)) ⟨rfl, rfl⟩
  | flag hi b => exact .unchanged (storedTo_of_eq_none (dataAccess_of_isFlagOp s hi)) ⟨rfl, rfl⟩
  | accCarry hi hu v c =>
    refine .unchanged (storedTo_of_eq_none (dataAccess_of_isAddSub s hi)) ?_
    rcases hu with rfl | rfl <;> simp [SameMemory]

/-! ### Registers -/

/-- Only the register written can read differently. -/
theorem eq_of_getR_setR_ne {j k : BitVec 5} {v : Word} (h : (s.setR k v).getR j ≠ s.getR j) : k = j := by
  by_contra hne
  exact h (GprReach.getR_setR_of_ne s k v hne)

theorem toNat_etypeReg (rx : BitVec 4) : (etypeReg rx).toNat = rx.toNat := BitVec.toNat_setWidth_of_le (by decide)

theorem toNat_gprOfId {d : RegId} (h : d.toNat < 32) : (gprOfId d).toNat = d.toNat := by
  rw [gprOfId, BitVec.toNat_setWidth]
  exact Nat.mod_eq_of_lt h

/-- R22: a general purpose register changes only as the destination of a load, a move, a POP, INC or DEC. -/
theorem Effect.gpr_cases (h : Effect s i t) {j : BitVec 5} (hj : t.getR j ≠ s.getR j) :
    (∃ rx imm, rx.toNat = j.toNat ∧ (i = .ldr rx imm ∨ i = .ldru rx imm ∨ i = .ldAtMptr rx imm ∨ i = .ldbAtMptr rx imm)) ∨
    (∃ r : RegId, r.toNat = j.toNat ∧
      ((∃ r2, i = .mov r r2) ∨ i = .movFromPc r ∨ i = .pop r ∨ i = .inc r ∨ i = .dec r)) := by
  cases h with
  | loadImm hi v =>
    obtain rfl := eq_of_getR_setR_ne hj
    exact .inl ⟨_, _, (toNat_etypeReg _).symm, hi.elim .inl (.inr ∘ .inl)⟩
  | loadAtMptr hi v =>
    obtain rfl := eq_of_getR_setR_ne hj
    exact .inl ⟨_, _, (toNat_etypeReg _).symm, .inr (.inr hi)⟩
  | pop hr v =>
    obtain rfl := eq_of_getR_setR_ne hj
    exact .inr ⟨_, (toNat_gprOfId hr).symm, .inr (.inr (.inl rfl))⟩
  | stepReg hi hr v =>
    obtain rfl := eq_of_getR_setR_ne hj
    exact .inr ⟨_, (toNat_gprOfId hr).symm, .inr (.inr (.inr hi))⟩
  | move hi hw =>
    rcases writeId_cases hw with ⟨hd, rfl⟩ | ⟨-, -, rfl⟩ | ⟨-, -, rfl⟩ | ⟨-, -, rfl⟩ | ⟨-, -, rfl⟩
    · obtain rfl := eq_of_getR_setR_ne hj
      cases hi with
      | mov hv => exact .inr ⟨_, (toNat_gprOfId hd).symm, .inl ⟨_, rfl⟩⟩
      | fromPc => exact .inr ⟨_, (toNat_gprOfId hd).symm, .inr (.inl rfl)⟩
      | jmp hv => exact absurd hd (by decide)
    all_goals exact absurd rfl hj
  | accCarry hi hu v c =>
    refine absurd (getR_congr ?_ j) hj
    rcases hu with rfl | rfl <;> simp
  | storeWordAtMptr h v | storeByteAtMptr h v | push h v => exact absurd (getR_congr (by simp) j) hj
  | branch | fallThrough | loadMptr | acc | flag => exact absurd rfl hj

/-- A move into the register of one ID above R31 is a MOV or a MOV from PC of that ID. -/
theorem Moves.of_id {d : RegId} {v : Word} (h : Moves s i d v) (hd : d ≠ RegId.pcId) :
    (∃ r, i = .mov d r) ∨ i = .movFromPc d := by
  cases h with
  | mov hv => exact .inl ⟨_, rfl⟩
  | fromPc => exact .inr rfl
  | jmp hv => exact absurd rfl hd

/-- R24: MPTR changes only in the four @MPTR instructions, LDMPTR, LDMPTRU, and a move to its ID. -/
theorem Effect.mptr_cases (h : Effect s i t) (hne : t.mptr ≠ s.mptr) :
    (∃ rx imm, i = .ldAtMptr rx imm ∨ i = .stAtMptr rx imm ∨ i = .ldbAtMptr rx imm ∨ i = .stbAtMptr rx imm) ∨
    (∃ imm, i = .ldmptr imm ∨ i = .ldmptru imm) ∨ (∃ r, i = .mov 61#6 r) ∨ i = .movFromPc 61#6 := by
  cases h with
  | loadAtMptr hi v => exact .inl ⟨_, _, hi.elim .inl (.inr ∘ .inr ∘ .inl)⟩
  | storeWordAtMptr => exact .inl ⟨_, _, .inr (.inl rfl)⟩
  | storeByteAtMptr => exact .inl ⟨_, _, .inr (.inr (.inr rfl))⟩
  | loadMptr hi v => exact .inr (.inl ⟨_, hi⟩)
  | move hi hw =>
    rcases writeId_cases hw with ⟨-, rfl⟩ | ⟨-, -, rfl⟩ | ⟨rfl, -, rfl⟩ | ⟨-, -, rfl⟩ | ⟨-, -, rfl⟩
    case inr.inr.inl => exact .inr (.inr (hi.of_id (by decide)))
    all_goals exact absurd rfl hne
  | accCarry hi hu v c => refine absurd ?_ hne; rcases hu with rfl | rfl <;> simp
  | _ => exact absurd (by simp) hne

/-- R25: SP changes only in POP, PUSH and a move to its ID. -/
theorem Effect.sp_cases (h : Effect s i t) (hne : t.sp ≠ s.sp) :
    (∃ r, i = .pop r ∨ i = .push r ∨ i = .mov 62#6 r) ∨ i = .movFromPc 62#6 := by
  cases h with
  | pop => exact .inl ⟨_, .inl rfl⟩
  | push => exact .inl ⟨_, .inr (.inl rfl)⟩
  | move hi hw =>
    rcases writeId_cases hw with ⟨-, rfl⟩ | ⟨-, -, rfl⟩ | ⟨-, -, rfl⟩ | ⟨rfl, -, rfl⟩ | ⟨-, -, rfl⟩
    case inr.inr.inr.inl =>
      rcases hi.of_id (by decide) with ⟨r, rfl⟩ | rfl
      · exact .inl ⟨r, .inr (.inr rfl)⟩
      · exact .inr rfl
    all_goals exact absurd rfl hne
  | accCarry hi hu v c => refine absurd ?_ hne; rcases hu with rfl | rfl <;> simp
  | _ => exact absurd (by simp) hne

/-- R23: A changes only in the instructions that write A, the adds and subtracts, and a move to its ID. -/
theorem Effect.acc_cases (h : Effect s i t) (hne : t.acc ≠ s.acc) :
    isAccOp i = true ∨ isAddSub i = true ∨ (∃ r, i = .mov 60#6 r) ∨ i = .movFromPc 60#6 := by
  cases h with
  | acc hi v => exact .inl hi
  | accCarry hi => exact .inr (.inl hi)
  | move hi hw =>
    rcases writeId_cases hw with ⟨-, rfl⟩ | ⟨rfl, -, rfl⟩ | ⟨-, -, rfl⟩ | ⟨-, -, rfl⟩ | ⟨-, -, rfl⟩
    case inr.inl => exact .inr (.inr (hi.of_id (by decide)))
    all_goals exact absurd rfl hne
  | _ => exact absurd (by simp) hne

/-! ### pc -/

/-- R27, R204: pc advances by 2, or a branch, a jump or MOV PC, PC sets it. -/
theorem Effect.pc_cases (h : Effect s i t) :
    t.pc = s.pc + 2#16 ∨
    (∃ off, (i = .sjmp off ∨ (i = .sjmpf off ∧ s.flag = true)) ∧ t.pc = s.branchTarget off) ∨
    (∃ r, (i = .jmp r ∨ i = .mov 63#6 r) ∧ s.readId .mov r = some t.pc) ∨
    (i = .movFromPc 63#6 ∧ t.pc = s.pc + 4#16) := by
  cases h with
  | branch hi => exact .inr (.inl ⟨_, hi, rfl⟩)
  | move hi hw =>
    rcases writeId_cases hw with ⟨-, rfl⟩ | ⟨-, -, rfl⟩ | ⟨-, -, rfl⟩ | ⟨-, -, rfl⟩ | ⟨rfl, -, rfl⟩
    case inr.inr.inr.inr =>
      generalize hd : (63#6 : RegId) = d at hi
      cases hi with
      | mov hv => exact .inr (.inr (.inl ⟨_, .inr rfl, hv⟩))
      | fromPc => exact .inr (.inr (.inr ⟨rfl, rfl⟩))
      | jmp hv => exact .inr (.inr (.inl ⟨_, .inl rfl, hv⟩))
    all_goals exact .inl rfl
  | accCarry hi hu v c => left; rcases hu with rfl | rfl <;> simp
  | _ => left; simp

end Fields

end Sys2Proof.Effects
end

section
/-! The rules over all instructions and over every step settled: the machine invariant, the parameters, WrittenSet, who writes flag,
carry and the registers, and how pc moves. -/

namespace Sys2Proof.Effects

open Sys2Proof.Machine Sys2Proof.Access

/-! ### The invariant -/

/-- The machine invariant, clause by clause. -/
theorem invariant_iff (s : State) :
    s.invariant = true ↔
      s.mem.wf = true ∧ addressesWf s.writtenSet = true ∧
      (∀ a ∈ s.writtenSet, a < s.params.memSize ∧ (s.mem.read a).isSome = true) ∧
      (s.params.fetchCoherence = .refuseWritten ∨ s.writtenSet = []) ∧
      (s.params.carryModel = .draw ∨ s.draws = 0) ∧ s.params.memSize ≤ 65536 := by
  simp [State.invariant, State.writtenSetOk, State.drawsOk, paramsInBounds, and_assoc]

section
variable {s t : State}

/-- The invariant looks at memory, WrittenSet, the parameters, and the counter outside CARRY_MODEL = draw. -/
theorem invariant_congr (hm : SameMemory t s) (hp : t.params = s.params) (hd : t.draws = s.draws ∨ s.params.carryModel = .draw)
    (h : s.invariant = true) : t.invariant = true := by
  obtain ⟨hmem, hws⟩ := hm
  rw [invariant_iff] at h ⊢
  rw [hmem, hws, hp]
  obtain ⟨hwf, haddr, hall, hfc, hdraws, hsize⟩ := h
  refine ⟨hwf, haddr, hall, hfc, ?_, hsize⟩
  rcases hd with hd | hd
  · rwa [hd]
  · exact .inl hd

/-- A store to a populated address keeps the invariant: the byte it enters in WrittenSet is the one it writes (R55). -/
theorem invariant_storeByte {a : Word} (v : Byte) (ha : a.toNat < s.params.memSize) (h : s.invariant = true) :
    (s.storeByte a v).invariant = true := by
  rw [invariant_iff] at h ⊢
  obtain ⟨hwf, haddr, hall, hfc, hdraws, hsize⟩ := h
  rw [storeByte_params, storeByte_draws]
  refine ⟨storeByte_wf hwf, ?_, fun b hb => ?_, ?_, hdraws, hsize⟩
  · rw [storeByte_writtenSet, noteWritten_writtenSet]
    split
    · exact addressesWf_add a.isLt haddr
    · exact haddr
  · rw [storeByte_mem, read_write]
    rcases (mem_writtenSet_storeByte s a v b).1 hb with hold | ⟨-, rfl⟩
    · refine ⟨(hall b hold).1, ?_⟩
      split
      · rfl
      · exact (hall b hold).2
    · exact ⟨ha, by rw [if_pos rfl]; rfl⟩
  · rcases hfc with hfc | hempty
    · exact .inl hfc
    · cases hc : s.params.fetchCoherence with
      | refuseWritten => exact .inl rfl
      | coherent => right; rw [storeByte_writtenSet, noteWritten_writtenSet, hc]; exact hempty

theorem invariant_storeWord {a : Word} (v : Word) (ha : s.admits a .two) (h : s.invariant = true) :
    (s.storeWord a v).invariant = true := by
  have hlow : a.toNat < s.params.memSize := ha.2 a (by simp [touched])
  have hhigh : (a + 1#16).toNat < s.params.memSize := ha.2 (a + 1#16) (by simp [touched])
  exact invariant_storeByte _ (by rwa [storeByte_params]) (invariant_storeByte _ hlow h)

/-- An instruction keeps the invariant: it leaves memory alone or makes one store that passed the checks. -/
theorem exec_keeps_invariant {i : Instr} (h : exec i s = .next t) (hs : s.invariant = true) : t.invariant = true := by
  have heff := effect_of_exec h
  cases heff.memory with
  | unchanged _ hsame => exact invariant_congr hsame heff.params heff.draws_cases hs
  | storedByte _ hadm b hsame =>
    refine invariant_congr hsame ?_ ?_ (invariant_storeByte b (hadm.2 _ (by simp [touched])) hs)
    · rw [storeByte_params, heff.params]
    · rw [storeByte_params, storeByte_draws]; exact heff.draws_cases
  | storedWord _ hadm v hsame =>
    refine invariant_congr hsame ?_ ?_ (invariant_storeWord v hadm hs)
    · rw [storeWord_params, heff.params]
    · rw [storeWord_params, storeWord_draws]; exact heff.draws_cases

/-- A step that answers next is an instruction run. -/
theorem exists_exec_of_step (h : step s = .next t) : ∃ i, exec i s = .next t := by
  obtain ⟨-, i, -, -, hexec⟩ := (step_next_iff s t).1 h
  exact ⟨i, hexec⟩
end

/-- Settles O8: the step runs an instruction, and an instruction keeps the invariant. -/
theorem everyStepKeepsTheInvariant : Obligations.EveryStepKeepsTheInvariant := by
  intro s t hs h
  obtain ⟨i, hexec⟩ := exists_exec_of_step h
  exact exec_keeps_invariant hexec hs

/-- Settles O7. -/
theorem resetHasTheInvariant : Obligations.ResetHasTheInvariant := by
  refine (invariant_iff State.reset).2 ⟨reset_mem_wf, rfl, fun a ha => ?_, .inl rfl, .inr rfl, le_refl _⟩
  exact absurd ha List.not_mem_nil

/-- Settles O9. -/
theorem noStepChangesTheParameters : Obligations.NoStepChangesTheParameters := by
  intro s t h
  obtain ⟨i, hexec⟩ := exists_exec_of_step h
  exact (effect_of_exec hexec).params

/-! ### WrittenSet -/

/-- Settles O10: WrittenSet after no store, after a 1-byte store, and after a 2-byte store. -/
theorem writtenSetGrowsByTheStoredBytes : Obligations.WrittenSetGrowsByTheStoredBytes := by
  intro i s t h a
  cases (effect_of_exec h).memory with
  | unchanged hnone hsame => simp [hnone, hsame.2]
  | storedByte hstore _ b hsame =>
    rw [hsame.2, mem_writtenSet_storeByte, hstore]
    simp [DataAccess.storedTo, touched, eq_comm]
  | storedWord hstore _ v hsame =>
    rw [hsame.2, mem_writtenSet_storeWord, hstore]
    simp [DataAccess.storedTo, touched, eq_comm]

section
variable {s t : State}

/-- No step takes an address out of WrittenSet (R62). -/
theorem step_keeps_written {a : Nat} (h : step s = .next t) (ha : a ∈ s.writtenSet) : a ∈ t.writtenSet := by
  obtain ⟨i, hexec⟩ := exists_exec_of_step h
  exact (writtenSetGrowsByTheStoredBytes i s t hexec a).2 (.inl ha)

/-- A run of one more step takes the step first. -/
theorem run_succ_next {n : Nat} (h : Host.Core.run Sys2Proof.core (n + 1) s = .next t) :
    ∃ u, step s = .next u ∧ Host.Core.run Sys2Proof.core n u = .next t := by
  simp only [Host.Core.run] at h
  split at h
  · exact ⟨_, ‹_›, h⟩
  · cases h
  · cases h

/-- What one step keeps of a state, a run keeps. -/
theorem run_keeps {P : State → Prop} (hstep : ∀ s t, step s = .next t → P s → P t) (n : Nat) (hs : P s)
    (h : Host.Core.run Sys2Proof.core n s = .next t) : P t := by
  induction n generalizing s with
  | zero => cases h; exact hs
  | succ n ih =>
    obtain ⟨u, hnext, hrun⟩ := run_succ_next h
    exact ih (hstep s u hnext hs) hrun

/-- Under refuse-written a stored byte is not fetched (R57). -/
theorem fetchByte_ne_ok_of_written {a : Word} (hfc : s.params.fetchCoherence = .refuseWritten) (ha : a.toNat ∈ s.writtenSet)
    (v : Byte) : s.fetchByte a ≠ .ok v := by
  intro h
  obtain ⟨-, -, hnot⟩ := (fetchByte_ok_iff s a v).1 h
  exact hnot ⟨hfc, ha⟩
end

/-- Settles O11: the run keeps the parameters and the address, and the fetch then fails at the one byte or the other. -/
theorem aStoredByteIsNeverFetched : Obligations.AStoredByteIsNeverFetched := by
  intro n s u a hfc ha hrun hpc
  obtain ⟨hfcu, hau⟩ : u.params.fetchCoherence = .refuseWritten ∧ a.toNat ∈ u.writtenSet := by
    refine run_keeps (P := fun v => v.params.fetchCoherence = .refuseWritten ∧ a.toNat ∈ v.writtenSet) ?_ n ⟨hfc, ha⟩ hrun
    rintro v w h ⟨hv, hmem⟩
    exact ⟨by rw [noStepChangesTheParameters v w h, hv], step_keeps_written h hmem⟩
  cases hfetch : u.fetch with
  | error f => exact ⟨f, step_of_fetch_stop hfetch⟩
  | ok iw =>
    obtain ⟨-, hlow, hhigh⟩ := (fetch_ok_iff u iw).1 hfetch
    rcases hpc with rfl | rfl
    · exact absurd hlow (fetchByte_ne_ok_of_written hfcu hau _)
    · exact absurd hhigh (fetchByte_ne_ok_of_written hfcu hau _)

/-! ### Flag, carry, registers -/

/-- Settles O15. -/
theorem onlyComparesAndNotfChangeFlag : Obligations.OnlyComparesAndNotfChangeFlag := by
  intro i s t h hne
  have hi : isFlagOp i = true := (effect_of_exec h).flag_cases.resolve_left hne
  cases i with
  | cli imm | cgi imm | cei imm => exact .inl ⟨imm, by simp⟩
  | cl r | cg r | ce r => exact .inr (.inl ⟨r, by simp⟩)
  | notf x => exact .inr (.inr ⟨x, rfl⟩)
  | _ => cases hi

/-- Settles O16. -/
theorem onlyAddAndSubtractChangeCarry : Obligations.OnlyAddAndSubtractChangeCarry := by
  intro i s t h hne
  obtain ⟨hcm, hi⟩ := (effect_of_exec h).carry_cases.resolve_left hne
  refine ⟨hcm, ?_⟩
  cases i with
  | addi imm | adci imm | sbbi imm => exact .inl ⟨imm, by simp⟩
  | add r | adc r | sub r | sbb r => exact .inr ⟨r, by simp⟩
  | _ => cases hi

/-- Settles O17: register by register. -/
theorem registersChangeOnlyByTheirWriters : Obligations.RegistersChangeOnlyByTheirWriters := by
  intro i s t h
  have heff := effect_of_exec h
  refine ⟨fun j => heff.gpr_cases, heff.mptr_cases, heff.sp_cases, fun hne => ?_⟩
  rcases heff.acc_cases hne with hi | hi | ⟨r, rfl⟩ | rfl
  · cases i with
    | lda imm | ldau imm | andi imm | ori imm | xori imm | slai imm | srai imm | slli imm | srli imm => simp
    | and r | or r | xor r | sla r | sra r | sll r | srl r => simp
    | _ => cases hi
  · cases i with
    | addi imm | adci imm | sbbi imm | add r | adc r | sub r | sbb r => simp
    | _ => cases hi
  · simp
  · simp

/-! ### pc -/

/-- Settles O20. -/
theorem pcAdvancesByTwoUnlessAJumpIsTaken : Obligations.PcAdvancesByTwoUnlessAJumpIsTaken := by
  intro i s t h
  rcases (effect_of_exec h).pc_cases with hpc | ⟨off, hi, hpc⟩ | hjump | hskip
  · exact .inl hpc
  · refine .inr (.inl ⟨off, _, hi, rfl, ?_⟩)
    rw [hpc, State.branchTarget]
    cases s.params.branchBase <;> rfl
  · exact .inr (.inr (.inl hjump))
  · exact .inr (.inr (.inr hskip))

/-- Bit 0 of a sum. -/
theorem isOdd_add (a b : Word) : isOdd (a + b) = xor (isOdd a) (isOdd b) := by
  rw [isOdd, BitVec.getLsbD_add (by decide), BitVec.carry_zero, Bool.xor_false]
  rfl

/-- Bit 0 of a sign extended immediate is that of the immediate. -/
theorem isOdd_sext16 (off : BitVec 12) : isOdd (sext16 off) = off.getLsbD 0 := by
  rw [isOdd, sext16, BitVec.getLsbD_signExtend]
  rfl

/-- The target of a branch at an even address is odd exactly when the offset is. -/
theorem isOdd_branchTarget {s : State} (h : isOdd s.pc = false) (off : BitVec 12) :
    isOdd (s.branchTarget off) = off.getLsbD 0 := by
  have htwo : isOdd 2#16 = false := by decide
  unfold State.branchTarget
  split <;> simp only [isOdd_add, isOdd_sext16, h, htwo, Bool.false_xor]

/-- Settles O21: of the ways pc changes, adding 2 or 4 keeps it even. -/
theorem anEvenPcBecomesOddOnlyByAnOddJump : Obligations.AnEvenPcBecomesOddOnlyByAnOddJump := by
  intro i s t h heven hodd
  rcases (effect_of_exec h).pc_cases with hpc | ⟨off, hi, hpc⟩ | ⟨r, hi, hread⟩ | ⟨-, hpc⟩
  · rw [hpc, isOdd_add, heven] at hodd
    exact absurd hodd (by decide)
  · rw [hpc, isOdd_branchTarget heven] at hodd
    exact .inl ⟨off, hi.imp_right And.left, hodd⟩
  · exact .inr ⟨r, t.pc, hi, hread, hodd⟩
  · rw [hpc, isOdd_add, heven] at hodd
    exact absurd hodd (by decide)

end Sys2Proof.Effects
end

section
/-! SUPPORT. Which register IDs each class takes (R33 to R35), the register instructions of the class ALU as one form, and which
instructions do not look at memory (R58). -/

namespace Sys2Proof.Outcomes

open Sys2Proof.Machine Sys2Proof.Access

/-! ### Register IDs by class -/

section Ids
variable (s : State) (cls : RegClass) (v : Word) (id : RegId)

/-- The kinds of register ID (R32). -/
theorem regId_cases :
    id.toNat < 32 ∨ (32 ≤ id.toNat ∧ id.toNat < 60) ∨ id = 60#6 ∨ id = 61#6 ∨ id = 62#6 ∨ id = 63#6 := by
  have hlt := id.isLt
  simp only [← BitVec.toNat_inj, BitVec.toNat_ofNat]
  omega

/-- The class MOV reads exactly its IDs (R34). -/
theorem readId_mov_none_iff : s.readId .mov id = none ↔ id.allowedMov = false := by
  rcases regId_cases id with h | ⟨h, h'⟩ | rfl | rfl | rfl | rfl
  · simp [GprReach.readId_gpr s .mov h, RegId.allowedMov, h]
  · simp [GprReach.readId_reserved s .mov h h', RegId.allowedMov, h, h']
  all_goals simp [State.readId, RegClass.allowsSpecial, RegId.allowedMov]

/-- The class ALU reads exactly its IDs (R34). -/
theorem readId_alu_none_iff : s.readId .alu id = none ↔ id.allowedAlu = false := by
  rcases regId_cases id with h | ⟨h, h'⟩ | rfl | rfl | rfl | rfl
  · simp [GprReach.readId_gpr s .alu h, RegId.allowedAlu, h]
  · simpa [GprReach.readId_reserved s .alu h h', RegId.allowedAlu, h] using fun hge => absurd h' (by omega)
  all_goals simp [State.readId, RegClass.allowsSpecial, RegId.allowedAlu]

/-- The class MOV writes exactly its IDs (R35). -/
theorem writeId_mov_none_iff : s.writeId .mov id v = none ↔ id.allowedMov = false := by
  rcases regId_cases id with h | ⟨h, h'⟩ | rfl | rfl | rfl | rfl
  · simp [GprReach.writeId_gpr s .mov v h, RegId.allowedMov, h]
  · simp [GprReach.writeId_reserved s .mov v h h', RegId.allowedMov, h, h']
  all_goals simp [State.writeId, RegId.allowedMov]

variable {id}

theorem isGpr_iff : id.isGpr = true ↔ id.toNat < 32 := decide_eq_true_iff

/-- The stack class reads no ID above R31 (R34). -/
theorem readId_stack_none (h : 32 ≤ id.toNat) : s.readId .stack id = none := by
  cases hr : s.readId .stack id with
  | none => rfl
  | some w => exact absurd (Effects.toNat_lt_of_readId_stack hr) (by omega)

end Ids

/-! ### The register instructions of the class ALU -/

/-- ADD to SRL, CL, CG and CE, as functions of their register ID (R34). -/
def aluOps : List (RegId → Instr) :=
  [.add, .sub, .adc, .sbb, .and, .or, .xor, .sla, .sra, .sll, .srl, .cl, .cg, .ce]

/-- Each reads its operand through the class ALU, and then answers a next state that the operand's value alone decides. -/
theorem exec_aluOp {op : RegId → Instr} (hop : op ∈ aluOps) :
    ∃ m : State → Word → State, ∀ r s, exec (op r) s = s.withOperand .alu r fun b => .next (m s b) := by
  simp only [aluOps, List.mem_cons, List.not_mem_nil, or_false] at hop
  rcases hop with rfl | rfl | rfl | rfl | rfl | rfl | rfl | rfl | rfl | rfl | rfl | rfl | rfl | rfl <;>
    exact ⟨_, fun _ _ => rfl⟩

theorem exec_aluReg_next {i : Instr} {r : RegId} (hi : i ∈ GprReach.aluRegInstrs r) :
    ∃ m : State → Word → State, ∀ s, exec i s = s.withOperand .alu r fun b => .next (m s b) := by
  obtain ⟨op, hop, rfl⟩ : ∃ op ∈ aluOps, op r = i := List.mem_map.1 hi
  obtain ⟨m, hm⟩ := exec_aluOp hop
  exact ⟨m, hm r⟩

/-! ### Meanings that do not look at memory -/

/-- The state with other memory and another WrittenSet. -/
def withMemory (m : Memory) (w : List Nat) (s : State) : State := { s with mem := m, writtenSet := w }

/-- A meaning neither reads nor writes memory: it may as well be replaced after it as before (R58). -/
def IgnoresMemory (k : State → Result) : Prop := ∀ m w s, k (withMemory m w s) = onNext (withMemory m w) (k s)

section Ignores

theorem setCarry_withMemory (m : Memory) (w : List Nat) (s : State) (b : Bool) :
    (withMemory m w s).setCarry b = withMemory m w (s.setCarry b) := by
  have hcm : (withMemory m w s).params = s.params := rfl
  unfold State.setCarry
  rw [hcm]
  cases s.params.carryModel <;> rfl

theorem carryIn_withMemory (m : Memory) (w : List Nat) (s : State) :
    (withMemory m w s).carryIn = (s.carryIn.1, withMemory m w s.carryIn.2) := by
  have hcm : (withMemory m w s).params = s.params := rfl
  unfold State.carryIn
  rw [hcm]
  cases s.params.carryModel <;> rfl

theorem writeId_withMemory (m : Memory) (w : List Nat) (s : State) (cls : RegClass) (id : RegId) (v : Word) :
    (withMemory m w s).writeId cls id v = (s.writeId cls id v).map (withMemory m w) := by
  simp only [State.writeId, apply_ite (Option.map (withMemory m w))]
  rfl

theorem ignoresMemory_intoAccCarry {r : State → Word × Bool} (hr : ∀ m w s, r (withMemory m w s) = r s) :
    IgnoresMemory (fun s => s.intoAccCarry (r s)) := by
  intro m w s
  have hset := setCarry_withMemory m w { s with acc := (r s).1 } (r s).2
  simp only [hr]
  exact congrArg (fun t : State => Host.Outcome.next t.advance) hset

theorem ignoresMemory_addWithCarry (b : Word) : IgnoresMemory (fun s => s.addWithCarry b) := by
  intro m w s
  simp only [State.addWithCarry, carryIn_withMemory]
  exact ignoresMemory_intoAccCarry (r := fun _ => addC s.acc b s.carryIn.1) (fun _ _ _ => rfl) m w s.carryIn.2

theorem ignoresMemory_subWithBorrow (b : Word) : IgnoresMemory (fun s => s.subWithBorrow b) := by
  intro m w s
  simp only [State.subWithBorrow, carryIn_withMemory]
  exact ignoresMemory_intoAccCarry (r := fun _ => subB s.acc b s.carryIn.1) (fun _ _ _ => rfl) m w s.carryIn.2

theorem ignoresMemory_withOperand {id : RegId} {cls : RegClass} {k : State → Word → Result}
    (hk : ∀ v, IgnoresMemory (fun s => k s v)) : IgnoresMemory (fun s => s.withOperand cls id (k s)) := by
  intro m w s
  have hread : (withMemory m w s).readId cls id = s.readId cls id := rfl
  simp only [State.withOperand, hread]
  cases s.readId cls id with
  | none => rfl
  | some v => exact hk v m w s

theorem ignoresMemory_intoRegister (cls : RegClass) (id : RegId) (v : Word) :
    IgnoresMemory (fun s => s.intoRegister cls id v) := by
  intro m w s
  simp only [State.intoRegister, writeId_withMemory]
  cases s.writeId cls id v <;> rfl

theorem ignoresMemory_moveRegister (d r : RegId) : IgnoresMemory (fun s => s.moveRegister d r) :=
  ignoresMemory_withOperand fun v => ignoresMemory_intoRegister .mov d v

end Ignores

/-- R58: an instruction without a data access does not look at memory. -/
theorem exec_ignoresMemory {i : Instr} {s : State} (h : dataAccess i s = .none) : IgnoresMemory (exec i) := by
  cases i with
  | ldAtMptr | stAtMptr | ldbAtMptr | stbAtMptr | pop | push => cases h
  | mov d r => exact ignoresMemory_moveRegister d r
  | movFromPc d => exact ignoresMemory_moveRegister d RegId.pcId
  | jmp r => exact ignoresMemory_moveRegister RegId.pcId r
  | inc r | dec r => exact ignoresMemory_withOperand fun _ => ignoresMemory_intoRegister .stack r _
  | and | or | xor | sla | sra | sll | srl | cl | cg | ce => exact ignoresMemory_withOperand fun _ _ _ _ => rfl
  | add | sub => exact ignoresMemory_withOperand fun _ => ignoresMemory_intoAccCarry fun _ _ _ => rfl
  | adc => exact ignoresMemory_withOperand ignoresMemory_addWithCarry
  | sbb => exact ignoresMemory_withOperand ignoresMemory_subWithBorrow
  | addi => exact ignoresMemory_intoAccCarry fun _ _ _ => rfl
  | adci => exact ignoresMemory_addWithCarry _
  | sbbi => exact ignoresMemory_subWithBorrow _
  | sjmpf off =>
    intro m w s
    simp only [exec, execSjmpf, apply_ite (onNext _)]
    rfl
  | ldr | ldru | lda | ldmptr | ldmptru | ldau | sjmp | slai | srai | slli | srli | andi | ori | xori | cli | cgi | cei
  | notf => exact fun _ _ _ => rfl

/-- Settles O19: the store of the one access, and `exec_ignoresMemory` where there is none. -/
theorem memoryIsTouchedByTheOneDataAccess : Obligations.MemoryIsTouchedByTheOneDataAccess := by
  intro i s t h
  constructor
  · intro a ha
    cases (Effects.effect_of_exec h).memory with
    | unchanged _ hsame => rw [hsame.1]
    | storedByte hstore _ b hsame =>
      rw [hstore] at ha
      rw [hsame.1, read_storeByte_of_ne _ _ _ (ha _ (by simp [DataAccess.storedTo, touched])).symm]
    | storedWord hstore _ v hsame =>
      rw [hstore] at ha
      rw [hsame.1, read_storeWord_of_ne _ _ _ (ha _ (by simp [DataAccess.storedTo, touched])).symm
        (ha _ (by simp [DataAccess.storedTo, touched])).symm]
  · intro hnone m w
    have hexec := exec_ignoresMemory hnone m w s
    rwa [h] at hexec

end Sys2Proof.Outcomes
end

section
/-! Which of its three outcomes an instruction has, settled: next, fault or refused (R58, R95, R204). -/

namespace Sys2Proof.Outcomes

open Sys2Proof.Machine Sys2Proof.Access

/-! ### Completion -/

/-- A result is a next state where a condition holds, and a fault where it does not. -/
def CompletesIff (P : Prop) (r : Result) : Prop := (P → ∃ t, r = .next t) ∧ (¬ P → ∃ f, r = .fault f)

theorem completesIff_next {r : Result} (h : ∃ t, r = .next t) : CompletesIff True r := ⟨fun _ => h, fun hn => absurd trivial hn⟩

/-- A meaning that continues from a memory primitive completes exactly where the primitive gives a value. -/
theorem completesIff_onMemory {α : Type} {P : Prop} {x : Except Fault α} {k : α → Result} (hx : (∃ a, x = .ok a) ↔ P)
    (hk : ∀ a, ∃ t, k a = .next t) : CompletesIff P (onMemory x k) := by
  rw [← hx]
  cases x with
  | ok a => exact ⟨fun _ => hk a, fun hn => absurd ⟨a, rfl⟩ hn⟩
  | error f => exact ⟨fun ⟨_, h⟩ => (nomatch h), fun _ => ⟨f, rfl⟩⟩

section Access
variable (s : State) (a : Word)

theorem exists_memRead1_iff : (∃ b, s.memRead1 a = .ok b) ↔ s.admits a .one ∧ s.holds a .one := by
  simp only [memRead1_ok_iff, exists_and_left, admits_iff, holds_one_iff, Option.isSome_iff_exists]

theorem exists_memRead2_iff : (∃ v, s.memRead2 a = .ok v) ↔ s.admits a .two ∧ s.holds a .two := by
  rw [holds_two_iff, Option.isSome_iff_exists, Option.isSome_iff_exists]
  constructor
  · rintro ⟨v, hv⟩
    obtain ⟨hcheck, hlo, hhi⟩ := (memRead2_ok_iff s a v).1 hv
    exact ⟨(admits_iff s a .two).2 hcheck, ⟨_, hlo⟩, ⟨_, hhi⟩⟩
  · rintro ⟨h, ⟨lo, hlo⟩, ⟨hi, hhi⟩⟩
    exact ⟨_, memRead2_of_admits h hlo hhi⟩

theorem exists_memWrite1_iff (b : Byte) : (∃ t, s.memWrite1 a b = .ok t) ↔ s.admits a .one := by
  simp only [memWrite1_ok_iff, admits_iff, exists_and_left, exists_eq, and_true]

theorem exists_memWrite2_iff (v : Word) : (∃ t, s.memWrite2 a v = .ok t) ↔ s.admits a .two := by
  simp only [memWrite2_ok_iff, admits_iff, exists_and_left, exists_eq, and_true]
end Access

section Exec
variable {s : State} {i : Instr} {d r : RegId}

theorem moveRegister_next_of_allowed (hd : d.allowedMov = true) (hr : r.allowedMov = true) :
    ∃ t, s.moveRegister d r = .next t := by
  obtain ⟨v, hv⟩ := GprReach.readId_mov_of_allowed s hr
  obtain ⟨t, ht, -⟩ := GprReach.writeId_mov_of_allowed s v hd
  exact ⟨t, by rw [State.moveRegister, withOperand_of_read hv, State.intoRegister, ht]⟩

theorem exec_aluReg_of_allowed (hi : i ∈ GprReach.aluRegInstrs r) (hr : r.allowedAlu = true) : ∃ t, exec i s = .next t := by
  obtain ⟨m, hm⟩ := exec_aluReg_next hi
  cases hread : s.readId .alu r with
  | none => rw [readId_alu_none_iff, hr] at hread; cases hread
  | some b => exact ⟨m s b, by rw [hm, withOperand_of_read hread]⟩

/-- R58, R204: an instruction with usable register IDs completes exactly when its data access passes the checks. -/
theorem exec_completesIff (h : i.regIdsAllowed = true) : CompletesIff (s.accessGoesThrough (dataAccess i s)) (exec i s) := by
  cases i with
  | ldAtMptr => exact completesIff_onMemory (exists_memRead2_iff s s.mptr) fun _ => ⟨_, rfl⟩
  | ldbAtMptr => exact completesIff_onMemory (exists_memRead1_iff s s.mptr) fun _ => ⟨_, rfl⟩
  | stAtMptr => exact completesIff_onMemory (exists_memWrite2_iff s s.mptr _) fun _ => ⟨_, rfl⟩
  | stbAtMptr => exact completesIff_onMemory (exists_memWrite1_iff s s.mptr _) fun _ => ⟨_, rfl⟩
  | pop r =>
    have hr := isGpr_iff.1 h
    rw [exec, execPop, GprReach.withOperand_gpr _ _ hr]
    exact completesIff_onMemory (exists_memRead2_iff s s.sp) fun v => ⟨_, GprReach.intoRegister_gpr _ _ v hr⟩
  | push r =>
    rw [exec, execPush, GprReach.withOperand_gpr _ _ (isGpr_iff.1 h)]
    exact completesIff_onMemory (exists_memWrite2_iff s s.pushAddr _) fun _ => ⟨_, rfl⟩
  | inc r | dec r =>
    have hr := isGpr_iff.1 h
    exact completesIff_next ⟨_, (GprReach.withOperand_gpr s .stack hr _).trans (GprReach.intoRegister_gpr s .stack _ hr)⟩
  | mov d r =>
    obtain ⟨hd, hr⟩ := Bool.and_eq_true_iff.1 h
    exact completesIff_next (moveRegister_next_of_allowed hd hr)
  | movFromPc d => exact completesIff_next (moveRegister_next_of_allowed (r := RegId.pcId) h rfl)
  | jmp r => exact completesIff_next (moveRegister_next_of_allowed (d := RegId.pcId) rfl h)
  | add | sub | adc | sbb | and | or | xor | sla | sra | sll | srl | cl | cg | ce =>
    exact completesIff_next (exec_aluReg_of_allowed (by simp [GprReach.aluRegInstrs]) h)
  | sjmpf off =>
    refine completesIff_next ?_
    rw [exec, execSjmpf]
    split <;> exact ⟨_, rfl⟩
  | ldr | ldru | lda | ldmptr | ldmptru | ldau | sjmp | slai | srai | slli | srli | andi | ori | xori | addi | adci | sbbi
  | cli | cgi | cei | notf => exact completesIff_next ⟨_, rfl⟩

/-! ### Refusal -/

theorem moveRegister_refused (h : (d.allowedMov && r.allowedMov) = false) :
    ∃ id, s.moveRegister d r = .refused (.reservedRegisterId id) := by
  rw [State.moveRegister]
  cases hread : s.readId .mov r with
  | none => exact ⟨r, withOperand_of_none hread _⟩
  | some v =>
    have hr : r.allowedMov ≠ false := fun hr => by rw [← readId_mov_none_iff s, hread] at hr; cases hr
    have hd : d.allowedMov = false := by simpa [hr] using h
    refine ⟨d, (withOperand_of_read hread _).trans ?_⟩
    rw [State.intoRegister, (writeId_mov_none_iff s v d).2 hd]

theorem exec_aluReg_refused (hi : i ∈ GprReach.aluRegInstrs r) (hr : r.allowedAlu = false) :
    exec i s = .refused (.reservedRegisterId r) := by
  obtain ⟨m, hm⟩ := exec_aluReg_next hi
  rw [hm, withOperand_of_none ((readId_alu_none_iff s r).2 hr)]

/-- R142, R143, R95: the stack class refuses an ID above R31 before anything else. -/
theorem withOperand_stack_refused (hr : 32 ≤ r.toNat) (k : Word → Result) :
    s.withOperand .stack r k = .refused (.reservedRegisterId r) :=
  withOperand_of_none (readId_stack_none s hr) k

/-- R95: an instruction with an ID it may not use is refused for one. -/
theorem exec_refused (h : i.regIdsAllowed = false) : ∃ id, exec i s = .refused (.reservedRegisterId id) := by
  cases i with
  | mov d r => exact moveRegister_refused h
  | movFromPc d => exact moveRegister_refused (r := RegId.pcId) (by rw [show d.allowedMov = false from h, Bool.false_and])
  | jmp r => exact moveRegister_refused (d := RegId.pcId) (by rw [show r.allowedMov = false from h, Bool.and_false])
  | add | sub | adc | sbb | and | or | xor | sla | sra | sll | srl | cl | cg | ce =>
    exact ⟨_, exec_aluReg_refused (by simp [GprReach.aluRegInstrs]) h⟩
  | pop r | push r | inc r | dec r =>
    exact ⟨r, withOperand_stack_refused (not_lt.1 (of_decide_eq_false h)) _⟩
  | _ => cases h

end Exec

/-- Settles O23. -/
theorem everyInstructionCompletesWhenItsAccessIsAdmitted : Obligations.EveryInstructionCompletesWhenItsAccessIsAdmitted :=
  fun _ _ h => exec_completesIff h

/-- Settles O22: with usable IDs the outcome is next or a fault. -/
theorem exactlyReservedRegisterIdsAreRefused : Obligations.ExactlyReservedRegisterIdsAreRefused := by
  intro i s
  refine ⟨exec_refused, fun r hrefused => ?_⟩
  have hids : i.regIdsAllowed = false := by
    by_contra hids
    obtain ⟨hnext, hfault⟩ := exec_completesIff (s := s) (Bool.eq_true_of_not_eq_false hids)
    by_cases hacc : s.accessGoesThrough (dataAccess i s)
    · obtain ⟨t, ht⟩ := hnext hacc
      rw [hrefused] at ht; cases ht
    · obtain ⟨f, hf⟩ := hfault hacc
      rw [hrefused] at hf; cases hf
  obtain ⟨id, hid⟩ := exec_refused (s := s) hids
  rw [hrefused] at hid
  exact ⟨hids, id, Host.Outcome.refused.inj hid⟩

/-- Settles O26: the classes ID by ID, and `exec_aluOp`. -/
theorem registerReadById : Obligations.RegisterReadById := by
  intro s cls id
  have hid : ∀ n, id.toNat = n → id = BitVec.ofNat 6 n := by
    rintro n rfl
    simp
  refine ⟨fun h => ⟨_, Effects.toNat_gprOfId h, GprReach.readId_gpr s cls h⟩, GprReach.readId_reserved s cls,
    fun h => ?_, fun h => ?_, fun h => ?_, fun h => ?_, fun op hop => ?_⟩
  · rw [hid 60 h]; cases cls <;> rfl
  · rw [hid 61 h]; cases cls <;> rfl
  · rw [hid 62 h]; cases cls <;> rfl
  · rw [hid 63 h]; cases cls <;> rfl
  · obtain ⟨m, hm⟩ := exec_aluOp hop
    refine ⟨fun hnone => ?_, fun r v hv hr => ⟨⟨m s v, ?_⟩, ?_⟩⟩
    · rw [hm, withOperand_of_none hnone]
    · rw [hm, withOperand_of_read hv]
    · rw [hm, hm, withOperand_of_read hv, withOperand_of_read hr]

end Sys2Proof.Outcomes
end

section
/-! The host's part settled: reset, the loaded image, a word placed at pc, and the end of a run (R220, R223, R224). -/

namespace Sys2Proof.Launching

open Sys2Proof.Machine Sys2Proof.Access

/-! ### Reset -/

theorem getR_reset (j : BitVec 5) : State.reset.getR j = 0#16 := by
  simp [State.getR, State.reset, State.resetWith, unstatedResetWord]

/-- Settles O6. -/
theorem resetLeavesTheStatedState : Obligations.ResetLeavesTheStatedState :=
  fun _ => ⟨rfl, rfl, fun _ => rfl, rfl, rfl, getR_reset, rfl, rfl, rfl, rfl, rfl⟩

/-! ### Loading an image (R223 step 3) -/

section Load
variable (s : State)

theorem byteAt_loadByte (a b : Word) (v : Byte) : (s.loadByte a v).byteAt b = if b = a then some v else s.byteAt b := by
  simp only [State.byteAt, loadByte_mem, read_write, BitVec.toNat_inj]

/-- A loaded byte is not in WrittenSet (R62). -/
theorem not_mem_writtenSet_loadByte (a : Word) (v : Byte) : a.toNat ∉ (s.loadByte a v).writtenSet := by
  simp [List.mem_filter]

theorem loadImage_cons (c : Word × Byte) (image : List (Word × Byte)) :
    s.loadImage (c :: image) = (s.loadByte c.1 c.2).loadImage image := rfl

theorem loadImage_pc (image : List (Word × Byte)) : (s.loadImage image).pc = s.pc := by
  induction image generalizing s with
  | nil => rfl
  | cons c image ih => rw [loadImage_cons, ih, loadByte_pc]

theorem loadImage_params (image : List (Word × Byte)) : (s.loadImage image).params = s.params := by
  induction image generalizing s with
  | nil => rfl
  | cons c image ih => rw [loadImage_cons, ih, loadByte_params]

variable {s}

/-- Loading takes addresses out of WrittenSet and enters none (R62). -/
theorem loadImage_writtenSet_nil (image : List (Word × Byte)) (h : s.writtenSet = []) : (s.loadImage image).writtenSet = [] := by
  induction image generalizing s with
  | nil => exact h
  | cons c image ih => exact ih (by rw [loadByte_writtenSet, h, List.filter_nil])

theorem loadImage_wf (image : List (Word × Byte)) (h : s.mem.wf = true) : (s.loadImage image).mem.wf = true := by
  induction image generalizing s with
  | nil => exact h
  | cons c image ih => exact ih (loadByte_wf h)

theorem byteAt_loadImage_of_not_mem {a : Word} {image : List (Word × Byte)} (h : a ∉ image.map Prod.fst) :
    (s.loadImage image).byteAt a = s.byteAt a := by
  induction image generalizing s with
  | nil => rfl
  | cons c image ih =>
    obtain ⟨hne, hrest⟩ := not_or.1 (mt List.mem_cons.2 h)
    rw [loadImage_cons, ih hrest, byteAt_loadByte, if_neg hne]

/-- Each byte of an image without repeated addresses is read back. -/
theorem byteAt_loadImage_of_mem {c : Word × Byte} {image : List (Word × Byte)} (hnodup : (image.map Prod.fst).Nodup)
    (hc : c ∈ image) : (s.loadImage image).byteAt c.1 = some c.2 := by
  induction image generalizing s with
  | nil => cases hc
  | cons d image ih =>
    obtain ⟨hfresh, hrest⟩ := List.nodup_cons.1 hnodup
    rw [loadImage_cons]
    rcases List.mem_cons.1 hc with rfl | hmem
    · rw [byteAt_loadImage_of_not_mem hfresh, byteAt_loadByte, if_pos rfl]
    · exact ih hrest hmem
end Load

/-- A launch without INIT_STATE is the image loaded after reset (R223 steps 1 to 3). -/
theorem launch_empty_init (p : Params) (image : List (Word × Byte)) : launch p image {} = (State.resetWith p).loadImage image := rfl

/-- Settles O12: the image is loaded byte by byte into the reset state. -/
theorem launchLoadsTheImage : Obligations.LaunchLoadsTheImage := by
  intro p image hnodup
  rw [launch_empty_init]
  exact ⟨loadImage_pc _ image, loadImage_params _ image, loadImage_writtenSet_nil image rfl,
    fun c hc => byteAt_loadImage_of_mem hnodup hc, fun a ha => byteAt_loadImage_of_not_mem ha, loadImage_wf image rfl⟩

/-! ### A word placed where the step fetches (log 16) -/

/-- A table word decodes, as a 16-bit word under the default layouts, to the instruction it is read as. -/
theorem decode_of_decodeTableWord {nbits w : Nat} {i : Instr} (h : decodeTableWord nbits w = some i) :
    decode defaultParams.toLayouts (BitVec.ofNat 16 (w % 2 ^ nbits)) = .ok i := by
  simp only [decodeTableWord, decodeBytes, wordOfBytes_lowByte_highByte] at h
  cases hd : decode defaultParams.toLayouts (BitVec.ofNat 16 (w % 2 ^ nbits)) with
  | error e => rw [hd] at h; cases h
  | ok j => rw [hd] at h; exact congrArg Except.ok (Option.some.inj h)

section Place
variable {s : State} (iw : Word)

/-- A word loaded at pc is what the next step fetches, where pc is aligned and both its bytes are populated. -/
theorem fetch_loadWord_pc (halign : isOdd s.pc = true → s.params.misaligned = .split) (h0 : s.pc.toNat < s.params.memSize)
    (h1 : (s.pc + 1#16).toNat < s.params.memSize) : (s.loadWord s.pc iw).fetch = .ok iw := by
  have hlow : (s.loadWord s.pc iw).byteAt s.pc = some (lowByte iw) := by
    rw [State.loadWord, byteAt_loadByte, if_neg (succ_ne_self s.pc).symm, byteAt_loadByte, if_pos rfl]
  have hhigh : (s.loadWord s.pc iw).byteAt (s.pc + 1#16) = some (highByte iw) := by
    rw [State.loadWord, byteAt_loadByte, if_pos rfl]
  have hlow' : s.pc.toNat ∉ (s.loadWord s.pc iw).writtenSet := fun hmem =>
    not_mem_writtenSet_loadByte s s.pc (lowByte iw) (List.mem_filter.1 hmem).1
  have hhigh' : (s.pc + 1#16).toNat ∉ (s.loadWord s.pc iw).writtenSet :=
    not_mem_writtenSet_loadByte (s.loadByte s.pc (lowByte iw)) (s.pc + 1#16) (highByte iw)
  have hfetch := fetch_of_bytes (s := s.loadWord s.pc iw) halign (fetchByte_fetched h0 hlow (.inr hlow'))
    (fetchByte_fetched h1 hhigh (.inr hhigh'))
  rwa [wordOfBytes_lowByte_highByte] at hfetch
end Place

/-- Settles O14: the step fetches the placed word and decodes it as the table does. -/
theorem aWordPlacedAtPcRuns : Obligations.AWordPlacedAtPcRuns := by
  intro s nbits w i hi hlayouts halign h0 h1
  refine step_of_decode_ok (fetch_loadWord_pc _ halign h0 h1) ?_
  have hparams : (s.withFetchWord nbits w).params.toLayouts = defaultParams.toLayouts := hlayouts
  rw [hparams]
  exact decode_of_decodeTableWord hi

/-! ### The end of a run (R224) -/

section AtEnd
variable {s : State}

theorem branchTarget_self (h : s.params.branchBase = .self) (off : BitVec 12) : s.branchTarget off = s.pc + sext16 off := by
  rw [State.branchTarget, h]

theorem branchTarget_next (h : s.params.branchBase = .next) (off : BitVec 12) :
    s.branchTarget off = s.pc + 2#16 + sext16 off := by
  rw [State.branchTarget, h]

/-- R133. -/
theorem exec_sjmp (off : BitVec 12) (s : State) : exec (.sjmp off) s = .next { s with pc := s.branchTarget off } := rfl

/-- R134, taken. -/
theorem exec_sjmpf_taken (h : s.flag = true) (off : BitVec 12) :
    exec (.sjmpf off) s = .next { s with pc := s.branchTarget off } := if_pos h

/-- R134, not taken. -/
theorem exec_sjmpf_not_taken (h : s.flag = false) (off : BitVec 12) : exec (.sjmpf off) s = .next s.advance :=
  if_neg (by rw [h]; exact Bool.false_ne_true)

/-- R132. -/
theorem exec_jmp {r : RegId} {v : Word} (h : s.readId .mov r = some v) : exec (.jmp r) s = .next { s with pc := v } :=
  withOperand_of_read h _

/-- A run has ended exactly where the step answers the same state. -/
theorem atEnd_iff (s : State) : s.atEnd = true ↔ step s = .next s := by
  unfold State.atEnd
  cases step s <;> simp
end AtEnd

/-- Settles O13: each of the jumps has its own address as target. -/
theorem selfJumpsAreFixedPoints : Obligations.SelfJumpsAreFixedPoints := by
  intro s
  refine ⟨fun hself => ?_, fun hnext => ?_, fun r hr => exec_jmp hr, atEnd_iff s⟩
  · have htarget : s.branchTarget 0#12 = s.pc := by
      rw [branchTarget_self hself, show sext16 0#12 = 0#16 by decide, BitVec.add_zero]
    refine ⟨?_, fun hflag => ?_⟩
    · rw [exec_sjmp, htarget]
    · rw [exec_sjmpf_taken hflag, htarget]
  · have htarget : s.branchTarget 0xFFE#12 = s.pc := by
      rw [branchTarget_next hnext, show sext16 0xFFE#12 = 0xFFFE#16 by decide, BitVec.add_assoc,
        show (2#16 + 0xFFFE#16 : Word) = 0#16 by decide, BitVec.add_zero]
    rw [exec_sjmp, htarget]

end Sys2Proof.Launching
end

section
/-! The load, store, move, jump and stack instructions settled one by one (R110 to R119, R130 to R135, R140 to R143). -/

namespace Sys2Proof.PerInstruction

open Sys2Proof.Machine Sys2Proof.Access

/-! ### Loads and stores (R110 to R119) -/

/-- Settles O34. -/
theorem ldrLoadsTheSignExtendedByte : Obligations.LdrLoadsTheSignExtendedByte := by
  intro l rx imm s
  refine ⟨fun h => ?_, fun h => ?_, rfl⟩
  · rw [encode, h]; rfl
  · rw [encode, h]; rfl

/-- Settles O35. -/
theorem ldruWritesTheUpperByte : Obligations.LdruWritesTheUpperByte := fun _ _ _ => rfl

/-- Settles O36. -/
theorem ldAtMptrLoadsTwoBytes : Obligations.LdAtMptrLoadsTwoBytes :=
  fun _ _ _ _ _ h hlo hhi => GprReach.exec_ldAtMptr_of_read (memRead2_of_admits h hlo hhi)

section Store
variable {s : State} {rx : BitVec 4} {imm : BitVec 8}

/-- R113: ST@MPTR where the access passes the checks. -/
theorem exec_stAtMptr_of_admits (h : s.admits s.mptr .two) :
    exec (.stAtMptr rx imm) s = .next ((s.storeWord s.mptr (s.getR (etypeReg rx))).bumpMptr imm) :=
  onMemory_ok (memWrite2_of_admits h _) _

/-- R115: STB@MPTR where the access passes the checks. -/
theorem exec_stbAtMptr_of_admits (h : s.admits s.mptr .one) :
    exec (.stbAtMptr rx imm) s = .next ((s.storeByte s.mptr (lowByte (s.getR (etypeReg rx)))).bumpMptr imm) :=
  onMemory_ok (memWrite1_of_admits h _) _
end Store

/-- Settles O37. -/
theorem stAtMptrStoresTwoBytes : Obligations.StAtMptrStoresTwoBytes :=
  fun rx imm s h => ⟨_, exec_stAtMptr_of_admits h, byteAt_storeWord_low s s.mptr _, byteAt_storeWord_high s s.mptr _,
    fun _ => read_storeWord_of_ne s s.mptr _,
    congrArg (fun t => t.bumpMptr imm) (storeWord_eq s s.mptr (s.getR (etypeReg rx)))⟩

/-- Settles O38. -/
theorem ldbAtMptrLoadsTheLowByte : Obligations.LdbAtMptrLoadsTheLowByte :=
  fun _ _ _ _ h hb => GprReach.exec_ldbAtMptr_of_read (memRead1_of_admits h hb)

/-- Settles O39. -/
theorem stbAtMptrStoresTheLowByte : Obligations.StbAtMptrStoresTheLowByte :=
  fun rx imm s h => ⟨_, exec_stbAtMptr_of_admits h, byteAt_storeByte_same s s.mptr _, fun _ => read_storeByte_of_ne s s.mptr _,
    congrArg (fun t => t.bumpMptr imm) (storeByte_eq s s.mptr (lowByte (s.getR (etypeReg rx))))⟩

/-- The one T-type layout puts the immediate above opcode1 (R84). -/
theorem tWord_eq (l : TTypeLayout) (imm : BitVec 12) (op : BitVec 4) : tWord l imm op = imm ++ op := by cases l; rfl

/-- Settles O40. -/
theorem ldaAndLdmptrLoadTheImmediate : Obligations.LdaAndLdmptrLoadTheImmediate :=
  fun l _ _ => ⟨tWord_eq l.ttypeLayout _ _, rfl, tWord_eq l.ttypeLayout _ _, rfl⟩

/-- Settles O41. -/
theorem ldmptruAndLdauWriteTheTopNibble : Obligations.LdmptruAndLdauWriteTheTopNibble := fun _ _ _ => ⟨rfl, rfl⟩

/-! ### Moves and jumps (R130 to R135) -/

section Move
variable {s : State} {d r : RegId} {v : Word}

theorem moveRegister_of_read (h : s.readId .mov r = some v) (d : RegId) : s.moveRegister d r = s.intoRegister .mov d v :=
  withOperand_of_read h _

/-- A move to a reserved ID is refused (R33, D10). -/
theorem intoRegister_reserved (h : 32 ≤ d.toNat) (h' : d.toNat < 60) (cls : RegClass) (v : Word) :
    s.intoRegister cls d v = .refused (.reservedRegisterId d) := by
  rw [State.intoRegister, GprReach.writeId_reserved s cls v h h']
end Move

/-- Settles O42: the move ends in the write of its destination. -/
theorem movCopiesTheSource : Obligations.MovCopiesTheSource := by
  intro d r s v hread
  have hexec : ∀ d, exec (.mov d r) s = s.intoRegister .mov d v := moveRegister_of_read hread
  simp only [hexec]
  exact ⟨GprReach.intoRegister_gpr s .mov v, fun h h' => intoRegister_reserved h h' .mov v, rfl, rfl, rfl⟩

/-- Settles O43: the source reads as pc + 4. -/
theorem movFromPcCopiesPcPlusFour : Obligations.MovFromPcCopiesPcPlusFour := by
  intro d s
  have hexec : ∀ d, exec (.movFromPc d) s = s.intoRegister .mov d (s.pc + 4#16) :=
    moveRegister_of_read (r := RegId.pcId) rfl
  simp only [hexec]
  exact ⟨GprReach.intoRegister_gpr s .mov _, fun h h' => intoRegister_reserved h h' .mov _, rfl, rfl, rfl, rfl⟩

/-- Settles O44. -/
theorem jumpsSetPc : Obligations.JumpsSetPc := by
  intro r off s v
  refine ⟨Launching.exec_jmp, fun h => ?_, fun h => ?_, fun h => Launching.exec_sjmpf_not_taken h off⟩
  · have htarget : s.branchTarget off = s.pc + off.signExtend 16 := Launching.branchTarget_self h off
    rw [← htarget]
    exact ⟨rfl, fun hflag => Launching.exec_sjmpf_taken hflag off⟩
  · have htarget : s.branchTarget off = s.pc + 2#16 + off.signExtend 16 := Launching.branchTarget_next h off
    rw [← htarget]
    exact ⟨rfl, fun hflag => Launching.exec_sjmpf_taken hflag off⟩

/-! ### Stack, increment, decrement (R140 to R143) -/

section Stack
variable {s : State} {r : RegId}

/-- R141: PUSH where the access passes the checks. -/
theorem exec_push_of_admits (hr : r.toNat < 32) (h : s.admits s.pushAddr .two) :
    exec (.push r) s = .next { s.storeWord s.pushAddr (s.getR (gprOfId r)) with sp := s.pushAddr }.advance := by
  rw [exec, execPush, GprReach.withOperand_gpr _ _ hr]
  exact onMemory_ok (memWrite2_of_admits h _) _

/-- What a PUSH leaves: a store, SP and pc. -/
theorem pushed_eq (s : State) (a v : Word) :
    { s.storeWord a v with sp := a }.advance =
      { s with mem := (s.storeWord a v).mem, writtenSet := (s.storeWord a v).writtenSet, sp := a, pc := s.pc + 2#16 } :=
  congrArg (fun t : State => { t with sp := a }.advance) (storeWord_eq s a v)

/-- INC and DEC as one form: a function of the register goes back into it. -/
theorem stepRegister_eq (hr : r.toNat < 32) (f : Word → Word) :
    (s.withOperand .stack r fun v => s.intoRegister .stack r (f v)) =
      .next (s.setR (gprOfId r) (f (s.getR (gprOfId r)))).advance :=
  (GprReach.withOperand_gpr s .stack hr _).trans (GprReach.intoRegister_gpr s .stack _ hr)

/-- A register written with what it holds. -/
theorem gpr_set_getR (s : State) (j : BitVec 5) : s.gpr.set j.toNat (s.getR j) j.isLt = s.gpr := Vector.set_getElem_self _
end Stack

/-- Settles O45. -/
theorem popLoadsFromTheTop : Obligations.PopLoadsFromTheTop :=
  fun _ _ _ _ hr h hlo hhi => GprReach.exec_pop_of_read hr (memRead2_of_admits h hlo hhi)

/-- Settles O46. -/
theorem pushStoresBelowTheTop : Obligations.PushStoresBelowTheTop := by
  rintro r s a hr rfl h
  exact ⟨_, exec_push_of_admits hr h, byteAt_storeWord_low s _ _, byteAt_storeWord_high s _ _,
    fun _ => read_storeWord_of_ne s _ _, pushed_eq s _ _⟩

/-- Settles O47: POP reads back the word PUSH stored, at the SP it left. -/
theorem pushThenPopRestores : Obligations.PushThenPopRestores := by
  intro r s hr h
  have hread : ({ s.storeWord s.pushAddr (s.getR (gprOfId r)) with sp := s.pushAddr }.advance : State).memRead2 s.pushAddr =
      .ok (s.getR (gprOfId r)) :=
    (memRead2_ok_iff _ _ _).2 ⟨(admits_iff _ _ _).1 (admits_congr (storeWord_params s _ _) h),
      byteAt_storeWord_low s _ _, byteAt_storeWord_high s _ _⟩
  refine ⟨_, _, exec_push_of_admits hr h, GprReach.exec_pop_of_read hr hread, ?_⟩
  have hsp : s.pushAddr + 2#16 = s.sp := BitVec.sub_add_cancel _ _
  have hpc : s.pc + 2#16 + 2#16 = s.pc + 4#16 := BitVec.add_assoc _ _ _
  rw [pushed_eq]
  simp only [State.setR, State.advance, gpr_set_getR, hsp, hpc]

/-- Settles O48. -/
theorem incAndDecStepTheRegister : Obligations.IncAndDecStepTheRegister :=
  fun _ _ => ⟨fun hr => ⟨stepRegister_eq hr (· + 1#16), stepRegister_eq hr (· - 1#16)⟩,
    fun hr => ⟨Outcomes.withOperand_stack_refused hr _, Outcomes.withOperand_stack_refused hr _,
      Outcomes.withOperand_stack_refused hr _, Outcomes.withOperand_stack_refused hr _⟩⟩

/-! ### A stopped access (R56) -/

/-- Settles O31: each meaning continues from its memory primitive. -/
theorem aStoppedAccessStopsTheInstruction : Obligations.AStoppedAccessStopsTheInstruction := by
  intro s f rx imm r v
  refine ⟨fun h => onMemory_error h _, fun h => onMemory_error h _,
    fun h => onMemory_error (memWrite2_error_congr h _) _, fun h => onMemory_error (memWrite1_error_congr h _) _,
    fun hr h => ?_, fun hr h => ?_⟩
  · rw [exec, execPop, GprReach.withOperand_gpr _ _ hr]
    exact onMemory_error h _
  · rw [exec, execPush, GprReach.withOperand_gpr _ _ hr]
    exact onMemory_error (memWrite2_error_congr h _) _

/-! ### Registers (R20, R21) -/

/-- Settles O24. -/
theorem registersHoldTheLastValueWritten : Obligations.RegistersHoldTheLastValueWritten :=
  fun s i _ v => ⟨GprReach.getR_setR_same s i v, GprReach.getR_setR_of_ne s i v, rfl⟩

end Sys2Proof.PerInstruction
end

section
/-! The arithmetic laws, the shifts and the order relation as arithmetic, and the instructions that use them (R150 to R197). -/

namespace Sys2Proof.Arithmetic

open Sys2Proof.Machine Sys2Proof.Access

/-! ### Sums and differences (R160, R161) -/

theorem bitNat_eq_toNat (c : Bool) : bitNat c = c.toNat := by cases c <;> rfl

/-- Taking summands modulo 65536, with or without a sign, leaves a sum modulo 65536. -/
theorem bmod_add_add_bmod (x y z : Int) : (x.bmod 65536 + y.bmod 65536 + z).bmod 65536 = (x + y + z).bmod 65536 := by
  rw [add_right_comm, Int.add_bmod_bmod, add_right_comm, add_assoc, Int.bmod_add_bmod, add_assoc]

/-- Settles O49: the signed operands differ from the unsigned ones by multiples of 65536. -/
theorem addCIsTheExactSum : Obligations.AddCIsTheExactSum := by
  intro a b c
  have hword : (addC a b c).1 = BitVec.ofNat 16 (a.toNat + b.toNat + c.toNat) := by rw [← bitNat_eq_toNat]; rfl
  have hcarry : (addC a b c).2 = decide (65536 ≤ a.toNat + b.toNat + c.toNat) := by rw [← bitNat_eq_toNat]; rfl
  rw [hword, hcarry]
  refine ⟨BitVec.toNat_ofNat _ _, decide_eq_true_iff, ?_⟩
  rw [BitVec.toInt_ofNat', BitVec.toInt_eq_toNat_bmod a, BitVec.toInt_eq_toNat_bmod b]
  push_cast
  exact (bmod_add_add_bmod a.toNat b.toNat c.toNat).symm

/-- Taking operands modulo 65536, with or without a sign, leaves a difference modulo 65536. -/
theorem bmod_sub_sub_bmod (x y z : Int) : (x.bmod 65536 - y.bmod 65536 - z).bmod 65536 = (x - y - z).bmod 65536 := by
  rw [sub_right_comm, Int.sub_bmod_bmod, sub_right_comm, sub_sub, Int.bmod_sub_bmod, sub_sub]

/-- Settles O50: as for the sum. -/
theorem subBIsTheExactDifference : Obligations.SubBIsTheExactDifference := by
  intro a b c
  have hword : (subB a b c).1 = BitVec.ofInt 16 ((a.toNat : Int) - b.toNat - c.toNat) := by rw [← bitNat_eq_toNat]; rfl
  have hborrow : (subB a b c).2 = decide ((a.toNat : Int) - b.toNat - c.toNat < 0) := by rw [← bitNat_eq_toNat]; rfl
  rw [hword, hborrow]
  refine ⟨?_, ?_, ?_⟩
  · rw [BitVec.toNat_ofInt]
    omega
  · rw [decide_eq_true_iff]
    omega
  · rw [BitVec.toInt_ofInt, BitVec.toInt_eq_toNat_bmod a, BitVec.toInt_eq_toNat_bmod b]
    exact (bmod_sub_sub_bmod a.toNat b.toNat c.toNat).symm

/-! ### Shifts (R162) -/

/-- From 15 places on, an arithmetic right shift leaves copies of the sign bit. -/
theorem sshiftRight_of_le {k : Nat} (a : Word) (h : 15 ≤ k) :
    a.sshiftRight k = if a.getLsbD 15 then 0xFFFF#16 else 0x0000#16 := by
  apply BitVec.eq_of_getLsbD_eq
  intro j hj
  have hbit : (a.sshiftRight k).getLsbD j = a.getLsbD 15 := by
    rw [BitVec.getLsbD_sshiftRight]
    split
    · rename_i hlt
      obtain rfl : k = 15 := by omega
      obtain rfl : j = 0 := by omega
      rfl
    · simp [hj, BitVec.msb_eq_getLsbD_last]
  have hones : 0xFFFF#16 = BitVec.allOnes 16 := by decide
  rw [hbit, hones]
  cases a.getLsbD 15 with
  | false => simp
  | true => rw [if_pos rfl, BitVec.getLsbD_allOnes, decide_eq_true hj]

/-- Settles O51. -/
theorem shiftsAreMultiplicationAndFloor : Obligations.ShiftsAreMultiplicationAndFloor := by
  intro m a n k hk
  obtain rfl : k = shiftAmount m n := by rw [hk]; cases m <;> rfl
  refine ⟨?_, ?_, ?_, fun h => ⟨BitVec.shiftLeft_eq_zero h, BitVec.ushiftRight_eq_zero h⟩, fun h => sshiftRight_of_le a h⟩
  · rw [shl, BitVec.toNat_shiftLeft, Nat.shiftLeft_eq]
  · rw [shrL, BitVec.toNat_ushiftRight, Nat.shiftRight_eq_div_pow]
  · rw [shrA, BitVec.toInt_sshiftRight, Int.shiftRight_eq_div_pow]
    norm_cast

/-! ### Carry (R29) -/

/-- Settles O52. -/
theorem carryPrimitives : Obligations.CarryPrimitives := by
  intro s b
  refine ⟨fun h => ?_, fun h => ?_, fun h => ?_⟩ <;> rw [State.carryIn, State.setCarry, h]
  · exact ⟨rfl, rfl⟩
  · exact ⟨rfl, rfl⟩
  · exact ⟨⟨_, rfl⟩, rfl⟩

/-- What an add or subtract leaves (R150, R170, R171). -/
theorem intoAccCarry_eq (s : State) (r : Word × Bool) :
    s.intoAccCarry r = .next { s with
      acc := r.1, carry := if s.params.carryModel = .separate then r.2 else s.carry, pc := s.pc + 2#16 } := by
  rw [State.intoAccCarry, setCarry_eq, setCarry_carry]
  rfl

/-- What an add or subtract leaves that has read CarryIn (R151, R152, R172, R173). -/
theorem carryIn_intoAccCarry_eq (s : State) (r : Word × Bool) :
    s.carryIn.2.intoAccCarry r = .next { s with
      acc := r.1, carry := if s.params.carryModel = .separate then r.2 else s.carry
      draws := if s.params.carryModel = .draw then s.draws + 1 else s.draws, pc := s.pc + 2#16 } := by
  rw [intoAccCarry_eq, carryIn_state_eq, carryIn_draws]

/-- Settles O53. -/
theorem immediateAdditionsWriteAAndCarry : Obligations.ImmediateAdditionsWriteAAndCarry := by
  rintro imm s r r' r'' rfl rfl rfl
  exact ⟨intoAccCarry_eq s _, carryIn_intoAccCarry_eq s _, carryIn_intoAccCarry_eq s _⟩

/-- Settles O54. -/
theorem registerAdditionsWriteAAndCarry : Obligations.RegisterAdditionsWriteAAndCarry := by
  intro reg s b hread
  refine ⟨?_, ?_, ?_, ?_⟩ <;> rintro r rfl <;> refine (withOperand_of_read hread _).trans ?_
  · exact intoAccCarry_eq s _
  · exact intoAccCarry_eq s _
  · exact carryIn_intoAccCarry_eq s _
  · exact carryIn_intoAccCarry_eq s _

/-! ### Logic (R163) -/

/-- Bit `k` of a sign extended 8-bit immediate: its own bit, or its top bit above that. -/
theorem getLsbD_sext16 (imm : BitVec 8) {k : Nat} (hk : k < 16) : (sext16 imm).getLsbD k = imm.getLsbD (min k 7) := by
  rw [sext16, BitVec.getLsbD_signExtend, BitVec.msb_eq_getLsbD_last]
  by_cases h : k < 8
  · simp [hk, h, show min k 7 = k by omega]
  · simp [hk, h, show min k 7 = 7 by omega]

/-- Settles O55. -/
theorem logicWorksOnEveryBit : Obligations.LogicWorksOnEveryBit := by
  refine ⟨fun imm s => ⟨⟨_, rfl, fun k hk => ?_⟩, ⟨_, rfl, fun k hk => ?_⟩, ⟨_, rfl, fun k hk => ?_⟩, ?_⟩,
    fun reg s b hread => ⟨⟨_, withOperand_of_read hread _, fun k _ => BitVec.getLsbD_and⟩,
      ⟨_, withOperand_of_read hread _, fun k _ => BitVec.getLsbD_or⟩,
      ⟨_, withOperand_of_read hread _, fun k _ => BitVec.getLsbD_xor⟩⟩⟩
  · rw [BitVec.getLsbD_and, getLsbD_sext16 imm hk]
  · rw [BitVec.getLsbD_or, getLsbD_sext16 imm hk]
  · rw [BitVec.getLsbD_xor, getLsbD_sext16 imm hk]
  · have hones : sext16 0xFF#8 = BitVec.allOnes 16 := by decide
    rw [exec, execXori, hones, BitVec.xor_allOnes]
    rfl

/-- Settles O56. -/
theorem shiftInstructionsShiftA : Obligations.ShiftInstructionsShiftA := by
  rintro s m rfl
  exact ⟨fun imm => ⟨rfl, rfl, rfl, rfl⟩, fun reg b hread =>
    ⟨withOperand_of_read hread _, withOperand_of_read hread _, withOperand_of_read hread _, withOperand_of_read hread _⟩⟩

/-! ### The order relation (R197) -/

/-- The signed value in terms of the unsigned one and the sign bit. -/
theorem toInt_eq_sub_sign (a : Word) : a.toInt = a.toNat - (if a.getLsbD 15 then 65536 else 0) := by
  rw [BitVec.toInt_eq_msb_cond, BitVec.msb_eq_getLsbD_last]
  cases a.getLsbD 15 <;> simp

/-- The sign bit is the upper half of the unsigned numbers. -/
theorem sign_iff (a : Word) : a.getLsbD 15 = true ↔ 32768 ≤ a.toNat := by
  have h := BitVec.msb_eq_decide a
  rw [BitVec.msb_eq_getLsbD_last] at h
  exact h ▸ decide_eq_true_iff

theorem less_signed_of_sign_eq {a b : Word} (h : a.getLsbD 15 = b.getLsbD 15) : less .signed a b = less .unsigned a b := by
  simp only [less, toInt_eq_sub_sign, h]
  exact decide_eq_decide.2 (by omega)

/-- With different sign bits the signed order is the opposite of the unsigned one. -/
theorem less_signed_of_sign_ne {a b : Word} (h : a.getLsbD 15 ≠ b.getLsbD 15) : less .signed a b = !less .unsigned a b := by
  have hla := a.isLt
  have hlb := b.isLt
  rw [ne_eq, Bool.eq_iff_iff, sign_iff, sign_iff] at h
  simp only [less, toInt_eq_sub_sign, sign_iff, ← decide_not]
  apply decide_eq_decide.2
  split <;> split <;> omega

/-- Exactly one of Less, Equal and Greater holds, whichever number the words are read as. -/
theorem less_trichotomy (m : CompareModel) (a b : Word) :
    (less m a b = true ∧ a ≠ b ∧ greater m a b = false) ∨ (less m a b = false ∧ a = b ∧ greater m a b = false) ∨
      (less m a b = false ∧ a ≠ b ∧ greater m a b = true) := by
  cases m with
  | signed =>
    simp only [greater, less, decide_eq_true_iff, decide_eq_false_iff_not, ne_eq, ← BitVec.toInt_inj]
    omega
  | unsigned =>
    simp only [greater, less, decide_eq_true_iff, decide_eq_false_iff_not, ne_eq, ← BitVec.toNat_inj]
    omega

/-- Settles O57. -/
theorem orderRelationOfTheCompares : Obligations.OrderRelationOfTheCompares :=
  fun m a b => ⟨decide_eq_true_iff, decide_eq_true_iff, rfl, less_trichotomy m a b, less_signed_of_sign_eq,
    fun h => ⟨less_signed_of_sign_ne h, less_signed_of_sign_ne h.symm⟩⟩

/-! ### Compares and flag (R190 to R196) -/

/-- Settles O58. -/
theorem immediateComparesWriteFlag : Obligations.ImmediateComparesWriteFlag := by
  rintro imm s m rfl
  exact ⟨rfl, rfl, rfl⟩

/-- Settles O59. -/
theorem registerComparesWriteFlag : Obligations.RegisterComparesWriteFlag := by
  rintro reg s b m hread rfl
  exact ⟨withOperand_of_read hread _, withOperand_of_read hread _, withOperand_of_read hread _⟩

/-- R196. -/
theorem exec_notf (x : BitVec 6) (s : State) : exec (.notf x) s = .next { s with flag := !s.flag, pc := s.pc + 2#16 } := rfl

/-- Settles O60: the word is that of NOTF, which decodes back, and two inversions cancel. -/
theorem notfInvertsFlag : Obligations.NotfInvertsFlag := by
  intro l x y s
  refine ⟨?_, exec_notf x s, _, _, exec_notf x s, exec_notf y _, ?_⟩
  · have hdecode := Encoding.decodeOfEncodeIsTheInstruction l (.notf x) rfl
    rw [encode] at hdecode
    cases hl : l.rtypeLayout <;> rw [hl] at hdecode <;> exact hdecode
  · rw [Bool.not_not, BitVec.add_assoc]
    rfl

end Sys2Proof.Arithmetic
end
